-- ==== Sys2Proof/Word.lean ====
section
/-! DEFINITION. The two word sizes of VCORE (spec 00_scope.md R6): 8-bit data, 16-bit addresses. -/

namespace Sys2Proof

/-- A `u8` of R8: data, registers, the status byte, the zero-page addresses. -/
abbrev Byte := BitVec 8

/-- A `u16` of R8: addresses and the program counter. Arithmetic on it wraps modulo 65536. -/
abbrev Word := BitVec 16

end Sys2Proof
end

