-- ==== Sys2Proof/Syntax.lean ====
section
/-! DEFINITION. The syntax of VCORE's instructions: the 13 addressing modes (spec 10_state.md R36), the 56 mnemonics
(R37), an operand with the bytes its mode takes (30_encoding.md R71), and the ONE inductive of instructions. -/

namespace Sys2Proof

/-- The closed set of the 13 addressing modes, in the source's order (R36). -/
inductive Mode where
  | accumulator | immediate | absolute | zeroPage | zeroPageX | zeroPageY | absoluteX | absoluteY
  | implicit | relative | indirectX | indirectY | indirect
  deriving DecidableEq, Repr

/-- The closed set of the 56 mnemonics (R37), spelled as the spec spells them. -/
inductive Mnemonic where
  | ADC | AND | ASL | BCC | BCS | BEQ | BIT | BMI | BNE | BPL | BRK | BVC | BVS | CLC | CLD | CLI |
  CLV | CMP | CPX | CPY | DEC | DEX | DEY | EOR | INC | INX | INY | JMP | JSR | LDA | LDX | LDY | LSR
  | NOP | ORA | PHA | PHP | PLA | PLP | ROL | ROR | RTI | RTS | SBC | SEC | SED | SEI | STA | STX |
  STY | TAX | TAY | TSX | TXA | TXS | TYA
  deriving DecidableEq, Repr

/-- A mode together with the operand bytes that follow the opcode in it (R71). A two-byte operand is held joined,
high byte first, as R73 reads it. -/
inductive Operand where
  | implicit
  | accumulator
  | immediate (imm8 : Byte)
  | zeroPage (zp8 : Byte)
  | zeroPageX (zp8 : Byte)
  | zeroPageY (zp8 : Byte)
  | absolute (addr : Word)
  | absoluteX (addr : Word)
  | absoluteY (addr : Word)
  | indirectX (zp8 : Byte)
  | indirectY (zp8 : Byte)
  | indirect (ptr : Word)
  | relative (off8 : Byte)
  deriving DecidableEq, Repr

/-- The mode an operand belongs to. -/
def Operand.mode : Operand → Mode
  | .implicit => .implicit
  | .accumulator => .accumulator
  | .immediate _ => .immediate
  | .zeroPage _ => .zeroPage
  | .zeroPageX _ => .zeroPageX
  | .zeroPageY _ => .zeroPageY
  | .absolute _ => .absolute
  | .absoluteX _ => .absoluteX
  | .absoluteY _ => .absoluteY
  | .indirectX _ => .indirectX
  | .indirectY _ => .indirectY
  | .indirect _ => .indirect
  | .relative _ => .relative

/-- The instructions of spec/opcode_table.json: one constructor for each mnemonic, which the operand's mode narrows to
one row of the table, and `dflt` for the rows that are the default entry (R75, R278). -/
inductive Instr where
  /-- ADC: add with carry (R140). -/
  | adc (o : Operand)
  /-- AND: and (R160). -/
  | and (o : Operand)
  /-- ASL: arithmetic shift left (R180). -/
  | asl (o : Operand)
  /-- BCC: branch if carry clear (R256). -/
  | bcc (off : Byte)
  /-- BCS: branch if carry set (R257). -/
  | bcs (off : Byte)
  /-- BEQ: branch if equal (Z = 1) (R258). -/
  | beq (off : Byte)
  /-- BIT: bit test (R163). -/
  | bit (o : Operand)
  /-- BMI: branch if minus (N = 1) (R260). -/
  | bmi (off : Byte)
  /-- BNE: branch if not equal (Z = 0) (R259). -/
  | bne (off : Byte)
  /-- BPL: branch if plus (N = 0) (R261). -/
  | bpl (off : Byte)
  /-- BRK: break (R283). -/
  | brk
  /-- BVC: branch if overflow clear (R262). -/
  | bvc (off : Byte)
  /-- BVS: branch if overflow set (R263). -/
  | bvs (off : Byte)
  /-- CLC: clear carry (R270). -/
  | clc
  /-- CLD: clear decimal (R274). -/
  | cld
  /-- CLI: clear interrupt disable (R272). -/
  | cli
  /-- CLV: clear overflow (R276). -/
  | clv
  /-- CMP: compare accumulator (R144). -/
  | cmp (o : Operand)
  /-- CPX: compare X (R145). -/
  | cpx (o : Operand)
  /-- CPY: compare Y (R146). -/
  | cpy (o : Operand)
  /-- DEC: decrement memory (R185). -/
  | dec (o : Operand)
  /-- DEX: decrement X (R188). -/
  | dex
  /-- DEY: decrement Y (R189). -/
  | dey
  /-- EOR: exclusive or (R162). -/
  | eor (o : Operand)
  /-- INC: increment memory (R184). -/
  | inc (o : Operand)
  /-- INX: increment X (R186). -/
  | inx
  /-- INY: increment Y (R187). -/
  | iny
  /-- JMP: jump (R250). -/
  | jmp (o : Operand)
  /-- JSR: jump to subroutine (R252). -/
  | jsr (target : Word)
  /-- LDA: load accumulator (R210). -/
  | lda (o : Operand)
  /-- LDX: load X (R211). -/
  | ldx (o : Operand)
  /-- LDY: load Y (R212). -/
  | ldy (o : Operand)
  /-- LSR: logical shift right (R181). -/
  | lsr (o : Operand)
  /-- NOP: the documented no-operation (R277). -/
  | nop
  /-- ORA: or (R161). -/
  | ora (o : Operand)
  /-- PHA: push accumulator (R240). -/
  | pha
  /-- PHP: push status (R241). -/
  | php
  /-- PLA: pull accumulator (R242). -/
  | pla
  /-- PLP: pull status (R243). -/
  | plp
  /-- ROL: rotate left through carry (R182). -/
  | rol (o : Operand)
  /-- ROR: rotate right through carry (R183). -/
  | ror (o : Operand)
  /-- RTI: return from interrupt (R284). -/
  | rti
  /-- RTS: return from subroutine (R253). -/
  | rts
  /-- SBC: subtract with carry (R142). -/
  | sbc (o : Operand)
  /-- SEC: set carry (R271). -/
  | sec
  /-- SED: set decimal (R275). -/
  | sed
  /-- SEI: set interrupt disable (R273). -/
  | sei
  /-- STA: store accumulator (R213). -/
  | sta (o : Operand)
  /-- STX: store X (R214). -/
  | stx (o : Operand)
  /-- STY: store Y (R215). -/
  | sty (o : Operand)
  /-- TAX: A to X (R216). -/
  | tax
  /-- TAY: A to Y (R217). -/
  | tay
  /-- TSX: SP to X (R220). -/
  | tsx
  /-- TXA: X to A (R218). -/
  | txa
  /-- TXS: X to SP (R221). -/
  | txs
  /-- TYA: Y to A (R219). -/
  | tya
  /-- The default entry, at an opcode the table does not name (R75, R278). -/
  | dflt (op : Byte)
  deriving DecidableEq, Repr

/-- The mnemonic tag of an instruction (R34); the default entry's is NOP (R75). -/
def Instr.mnemonic : Instr → Mnemonic
  | .adc _ => .ADC
  | .and _ => .AND
  | .asl _ => .ASL
  | .bcc _ => .BCC
  | .bcs _ => .BCS
  | .beq _ => .BEQ
  | .bit _ => .BIT
  | .bmi _ => .BMI
  | .bne _ => .BNE
  | .bpl _ => .BPL
  | .brk => .BRK
  | .bvc _ => .BVC
  | .bvs _ => .BVS
  | .clc => .CLC
  | .cld => .CLD
  | .cli => .CLI
  | .clv => .CLV
  | .cmp _ => .CMP
  | .cpx _ => .CPX
  | .cpy _ => .CPY
  | .dec _ => .DEC
  | .dex => .DEX
  | .dey => .DEY
  | .eor _ => .EOR
  | .inc _ => .INC
  | .inx => .INX
  | .iny => .INY
  | .jmp _ => .JMP
  | .jsr _ => .JSR
  | .lda _ => .LDA
  | .ldx _ => .LDX
  | .ldy _ => .LDY
  | .lsr _ => .LSR
  | .nop => .NOP
  | .ora _ => .ORA
  | .pha => .PHA
  | .php => .PHP
  | .pla => .PLA
  | .plp => .PLP
  | .rol _ => .ROL
  | .ror _ => .ROR
  | .rti => .RTI
  | .rts => .RTS
  | .sbc _ => .SBC
  | .sec => .SEC
  | .sed => .SED
  | .sei => .SEI
  | .sta _ => .STA
  | .stx _ => .STX
  | .sty _ => .STY
  | .tax => .TAX
  | .tay => .TAY
  | .tsx => .TSX
  | .txa => .TXA
  | .txs => .TXS
  | .tya => .TYA
  | .dflt _ => .NOP

/-- The operand of an instruction, with its mode. -/
def Instr.operand : Instr → Operand
  | .adc o => o
  | .and o => o
  | .asl o => o
  | .bcc off => .relative off
  | .bcs off => .relative off
  | .beq off => .relative off
  | .bit o => o
  | .bmi off => .relative off
  | .bne off => .relative off
  | .bpl off => .relative off
  | .brk => .implicit
  | .bvc off => .relative off
  | .bvs off => .relative off
  | .clc => .implicit
  | .cld => .implicit
  | .cli => .implicit
  | .clv => .implicit
  | .cmp o => o
  | .cpx o => o
  | .cpy o => o
  | .dec o => o
  | .dex => .implicit
  | .dey => .implicit
  | .eor o => o
  | .inc o => o
  | .inx => .implicit
  | .iny => .implicit
  | .jmp o => o
  | .jsr w => .absolute w
  | .lda o => o
  | .ldx o => o
  | .ldy o => o
  | .lsr o => o
  | .nop => .implicit
  | .ora o => o
  | .pha => .implicit
  | .php => .implicit
  | .pla => .implicit
  | .plp => .implicit
  | .rol o => o
  | .ror o => o
  | .rti => .implicit
  | .rts => .implicit
  | .sbc o => o
  | .sec => .implicit
  | .sed => .implicit
  | .sei => .implicit
  | .sta o => o
  | .stx o => o
  | .sty o => o
  | .tax => .implicit
  | .tay => .implicit
  | .tsx => .implicit
  | .txa => .implicit
  | .txs => .implicit
  | .tya => .implicit
  | .dflt _ => .implicit

end Sys2Proof
end

