-- ==== Sys2Proof/Config.lean ====
section
/-! DEFINITION. The parameters of spec 00_scope.md R7 as plain data, the entries of the dispatch table (10_state.md R34),
the reset values a host supplies (R7 `INIT`), and the one free value of the model: what a device answers to a read. -/

namespace Sys2Proof

/-- A dispatch-table entry (R34): the mode selects the resolver, the mnemonic the routine. -/
structure Entry where
  mode : Mode
  mnemonic : Mnemonic
  base : Nat
  size : Nat
  deriving DecidableEq, Repr

/-- A valid record of the instruction-set description (R76), less the informational flags descriptor (C12). -/
structure Record where
  opcode : Byte
  entry : Entry
  deriving DecidableEq, Repr

/-- `CMP_N_POLICY` of R7 (D7). -/
inductive CmpNPolicy where
  | unsignedLess | bit7
  deriving DecidableEq, Repr

/-- `DECIMAL_POLICY` of R7 (D8). -/
inductive DecimalPolicy where
  | binary | fault
  deriving DecidableEq, Repr

/-- `INTERRUPT_STUBS` of R7 (D9). -/
inductive InterruptStubs where
  | fault | nmos
  deriving DecidableEq, Repr

/-- `ZP_PTR_WRAP` of R7 (D12). -/
inductive ZpPtrWrap where
  | wrap | linear
  deriving DecidableEq, Repr

/-- What the memory collaborator does in one region of its map (20_memory.md R50, R52, R56).
`plain` stores; `readOnly` reads its contents and discards writes (the "ROM" of C4); `gap` is the unmapped gap of R52
(reads yield zero, writes are discarded); `unserved` answers ERR to a read (R50, C8) and discards writes; `device`
is any behaviour at all (R50, R56): what it answers, a byte or ERR, is a free value of the address and of every read and
write made with such regions before, so mirrored and banked memory and memory with side effects are among them. -/
inductive RegionKind where
  | plain | readOnly | gap | unserved | device
  deriving DecidableEq, Repr

/-- One region of the collaborator's address map (R52): addresses `base` to `base + size - 1`. -/
structure Region where
  base : Nat
  size : Nat
  kind : RegionKind
  deriving DecidableEq, Repr

/-- The parameters of R7 but `INIT`: fixed before reset, never changed by a step (R35, R43).
`map` and `collaborator` are the part of `MEM` that is no contents. Where two regions of the map overlap the first one
counts, and an address that none holds is `plain`; the number says which collaborator answers in the `device` regions.
`penaltyClass` is a set: only membership counts. -/
structure Config where
  table : List Entry
  cmpN : CmpNPolicy
  decimal : DecimalPolicy
  stubs : InterruptStubs
  pushMask : Byte
  penaltyClass : List Mnemonic
  zpWrap : ZpPtrWrap
  map : List Region
  collaborator : Nat
  deriving DecidableEq, Repr

/-- `INIT` of R7: the register values the host supplies with `reset` (R320). -/
structure Init where
  a : Byte
  x : Byte
  y : Byte
  sp : Byte
  p : Byte
  pc : Word
  deriving DecidableEq, Repr

/-- One transaction of the memory port (10_state.md R42 `mem_rd`, `mem_wr`): a read with its answer (`none` is ERR), or a
write. -/
inductive Access where
  | rd (a : Word) (answer : Option Byte)
  | wr (a : Word) (v : Byte)
  deriving DecidableEq, Repr

/-- A read transaction. -/
def Access.isRead : Access → Bool
  | .rd _ _ => true
  | .wr _ _ => false

/-- The address of a transaction. -/
def Access.addr : Access → Word
  | .rd a _ => a
  | .wr a _ => a

/-- FREE VALUE (notes/assumptions/3.md): `MEM.rd` of R50 on the `device` regions. What the collaborator of a number answers
to a read at an address, after all transactions made with those regions before, oldest first: any byte, or ERR (`none`).
R56: a read of the same address twice may return two different values. A map of one `device` region over all 64 KB leaves
the whole of `MEM` to it. -/
opaque deviceAnswer : Nat → List Access → Word → Option Byte

end Sys2Proof
end

