-- ==== Sys2Proof/Machine/Bits.lean ====
section
/-! DEFINITION. The byte-order, bit-field and extension helpers of spec 00_scope.md R8. -/

namespace Sys2Proof

/-- `hi:lo` of R8: bits 15:8 are `hi`, bits 7:0 are `lo` (the little-endian join of R53). -/
def hiLo (hi lo : Byte) : Word := hi ++ lo

/-- `hi8(a)` of R8: the page of an address. -/
def hi8 (a : Word) : Byte := a.extractLsb' 8 8

/-- `lo8(a)` of R8. -/
def lo8 (a : Word) : Byte := a.extractLsb' 0 8

/-- `zext_16(v)` of R8. -/
def zext16 (b : Byte) : Word := b.setWidth 16

/-- `sext_16(v)` of R8: the two's-complement reading of a byte, as 16 bits. -/
def sext16 (b : Byte) : Word := b.signExtend 16

/-- One page-crossing test for every rule that makes one (R108, R109, R254): the pages of two addresses differ. -/
def pagesDiffer (a b : Word) : Bool := hi8 a != hi8 b

/-- A bit of R8 as a number: 1 for true, 0 for false. -/
def bitNat (b : Bool) : Nat := if b then 1 else 0

end Sys2Proof
end

