-- ==== Sys2Proof/Machine/Table.lean ====
section
/-! DEFINITION. The dispatch table: operand byte counts (spec 30_encoding.md R72), the legal pairs with their opcodes
and base counts (R79), the default entry (R75), building a table from a description (R76), the default table STD_TABLE
(R77, R78, opcode_table.json), the admission check (R80), and the defaults of the parameters (00_scope.md R7). -/

namespace Sys2Proof

/-- `ModeBytes` of R72: how many operand bytes follow the opcode. -/
def modeBytes : Mode → Nat
  | .implicit | .accumulator => 0
  | .immediate | .zeroPage | .zeroPageX | .zeroPageY | .indirectX | .indirectY | .relative => 1
  | .absolute | .absoluteX | .absoluteY | .indirect => 2

/-- The table of R79, row by row: the modes a mnemonic is paired with, each with its opcode and base cycle count. -/
def pairs : Mnemonic → List (Mode × Byte × Nat)
  | .ADC => [(.immediate, 0x69, 2), (.zeroPage, 0x65, 3), (.zeroPageX, 0x75, 4), (.absolute, 0x6D, 4),
      (.absoluteX, 0x7D, 4), (.absoluteY, 0x79, 4), (.indirectX, 0x61, 6), (.indirectY, 0x71, 5)]
  | .AND => [(.immediate, 0x29, 2), (.zeroPage, 0x25, 3), (.zeroPageX, 0x35, 4), (.absolute, 0x2D, 4),
      (.absoluteX, 0x3D, 4), (.absoluteY, 0x39, 4), (.indirectX, 0x21, 6), (.indirectY, 0x31, 5)]
  | .ASL => [(.accumulator, 0x0A, 2), (.zeroPage, 0x06, 5),
      (.zeroPageX, 0x16, 6), (.absolute, 0x0E, 6), (.absoluteX, 0x1E, 7)]
  | .BCC => [(.relative, 0x90, 2)]
  | .BCS => [(.relative, 0xB0, 2)]
  | .BEQ => [(.relative, 0xF0, 2)]
  | .BIT => [(.zeroPage, 0x24, 3), (.absolute, 0x2C, 4)]
  | .BMI => [(.relative, 0x30, 2)]
  | .BNE => [(.relative, 0xD0, 2)]
  | .BPL => [(.relative, 0x10, 2)]
  | .BRK => [(.implicit, 0x00, 7)]
  | .BVC => [(.relative, 0x50, 2)]
  | .BVS => [(.relative, 0x70, 2)]
  | .CLC => [(.implicit, 0x18, 2)]
  | .CLD => [(.implicit, 0xD8, 2)]
  | .CLI => [(.implicit, 0x58, 2)]
  | .CLV => [(.implicit, 0xB8, 2)]
  | .CMP => [(.immediate, 0xC9, 2), (.zeroPage, 0xC5, 3), (.zeroPageX, 0xD5, 4), (.absolute, 0xCD, 4),
      (.absoluteX, 0xDD, 4), (.absoluteY, 0xD9, 4), (.indirectX, 0xC1, 6), (.indirectY, 0xD1, 5)]
  | .CPX => [(.immediate, 0xE0, 2), (.zeroPage, 0xE4, 3), (.absolute, 0xEC, 4)]
  | .CPY => [(.immediate, 0xC0, 2), (.zeroPage, 0xC4, 3), (.absolute, 0xCC, 4)]
  | .DEC => [(.zeroPage, 0xC6, 5), (.zeroPageX, 0xD6, 6), (.absolute, 0xCE, 6), (.absoluteX, 0xDE, 7)]
  | .DEX => [(.implicit, 0xCA, 2)]
  | .DEY => [(.implicit, 0x88, 2)]
  | .EOR => [(.immediate, 0x49, 2), (.zeroPage, 0x45, 3), (.zeroPageX, 0x55, 4), (.absolute, 0x4D, 4),
      (.absoluteX, 0x5D, 4), (.absoluteY, 0x59, 4), (.indirectX, 0x41, 6), (.indirectY, 0x51, 5)]
  | .INC => [(.zeroPage, 0xE6, 5), (.zeroPageX, 0xF6, 6), (.absolute, 0xEE, 6), (.absoluteX, 0xFE, 7)]
  | .INX => [(.implicit, 0xE8, 2)]
  | .INY => [(.implicit, 0xC8, 2)]
  | .JMP => [(.absolute, 0x4C, 3), (.indirect, 0x6C, 5)]
  | .JSR => [(.absolute, 0x20, 6)]
  | .LDA => [(.immediate, 0xA9, 2), (.zeroPage, 0xA5, 3), (.zeroPageX, 0xB5, 4), (.absolute, 0xAD, 4),
      (.absoluteX, 0xBD, 4), (.absoluteY, 0xB9, 4), (.indirectX, 0xA1, 6), (.indirectY, 0xB1, 5)]
  | .LDX => [(.immediate, 0xA2, 2), (.zeroPage, 0xA6, 3),
      (.zeroPageY, 0xB6, 4), (.absolute, 0xAE, 4), (.absoluteY, 0xBE, 4)]
  | .LDY => [(.immediate, 0xA0, 2), (.zeroPage, 0xA4, 3),
      (.zeroPageX, 0xB4, 4), (.absolute, 0xAC, 4), (.absoluteX, 0xBC, 4)]
  | .LSR => [(.accumulator, 0x4A, 2), (.zeroPage, 0x46, 5),
      (.zeroPageX, 0x56, 6), (.absolute, 0x4E, 6), (.absoluteX, 0x5E, 7)]
  | .NOP => [(.implicit, 0xEA, 2)]
  | .ORA => [(.immediate, 0x09, 2), (.zeroPage, 0x05, 3), (.zeroPageX, 0x15, 4), (.absolute, 0x0D, 4),
      (.absoluteX, 0x1D, 4), (.absoluteY, 0x19, 4), (.indirectX, 0x01, 6), (.indirectY, 0x11, 5)]
  | .PHA => [(.implicit, 0x48, 3)]
  | .PHP => [(.implicit, 0x08, 3)]
  | .PLA => [(.implicit, 0x68, 4)]
  | .PLP => [(.implicit, 0x28, 4)]
  | .ROL => [(.accumulator, 0x2A, 2), (.zeroPage, 0x26, 5),
      (.zeroPageX, 0x36, 6), (.absolute, 0x2E, 6), (.absoluteX, 0x3E, 7)]
  | .ROR => [(.accumulator, 0x6A, 2), (.zeroPage, 0x66, 5),
      (.zeroPageX, 0x76, 6), (.absolute, 0x6E, 6), (.absoluteX, 0x7E, 7)]
  | .RTI => [(.implicit, 0x40, 6)]
  | .RTS => [(.implicit, 0x60, 6)]
  | .SBC => [(.immediate, 0xE9, 2), (.zeroPage, 0xE5, 3), (.zeroPageX, 0xF5, 4), (.absolute, 0xED, 4),
      (.absoluteX, 0xFD, 4), (.absoluteY, 0xF9, 4), (.indirectX, 0xE1, 6), (.indirectY, 0xF1, 5)]
  | .SEC => [(.implicit, 0x38, 2)]
  | .SED => [(.implicit, 0xF8, 2)]
  | .SEI => [(.implicit, 0x78, 2)]
  | .STA => [(.zeroPage, 0x85, 3), (.zeroPageX, 0x95, 4), (.absolute, 0x8D, 4),
      (.absoluteX, 0x9D, 5), (.absoluteY, 0x99, 5), (.indirectX, 0x81, 6), (.indirectY, 0x91, 6)]
  | .STX => [(.zeroPage, 0x86, 3), (.zeroPageY, 0x96, 4), (.absolute, 0x8E, 4)]
  | .STY => [(.zeroPage, 0x84, 3), (.zeroPageX, 0x94, 4), (.absolute, 0x8C, 4)]
  | .TAX => [(.implicit, 0xAA, 2)]
  | .TAY => [(.implicit, 0xA8, 2)]
  | .TSX => [(.implicit, 0xBA, 2)]
  | .TXA => [(.implicit, 0x8A, 2)]
  | .TXS => [(.implicit, 0x9A, 2)]
  | .TYA => [(.implicit, 0x98, 2)]

/-- The check `pair_legal` of R80, for one pair: R79 lists it. -/
def legalPair (m : Mnemonic) (md : Mode) : Bool := (pairs m).any fun q => q.1 == md

/-- `DEFAULT` of R75: the entry of every opcode the description does not name. -/
def defaultEntry : Entry := ⟨.implicit, .NOP, 1, 1⟩

/-- R76: the table a sequence of valid records builds. Every entry starts as `DEFAULT`, and the last record for an
opcode wins. -/
def buildTable (rs : List Record) : List Entry :=
  rs.foldl (fun t r => t.set r.opcode.toNat r.entry) (List.replicate 256 defaultEntry)

/-- R76, permissive mode: a record that is not valid (`none`) is skipped. -/
def buildPermissive (d : List (Option Record)) : List Entry := buildTable (d.filterMap id)

/-- R76, strict mode: one record that is not valid and no table exists. -/
def buildStrict (d : List (Option Record)) : Option (List Entry) :=
  if d.all Option.isSome then some (buildPermissive d) else none

/-- Opcodes 0x00 to 0x0F of the map of R78. -/
def stdRow0 : List Entry := [
    ⟨.implicit, .BRK, 7, 1⟩, ⟨.indirectX, .ORA, 6, 2⟩, defaultEntry, defaultEntry,
    defaultEntry, ⟨.zeroPage, .ORA, 3, 2⟩, ⟨.zeroPage, .ASL, 5, 2⟩, defaultEntry,
    ⟨.implicit, .PHP, 3, 1⟩, ⟨.immediate, .ORA, 2, 2⟩, ⟨.accumulator, .ASL, 2, 1⟩, defaultEntry,
    defaultEntry, ⟨.absolute, .ORA, 4, 3⟩, ⟨.absolute, .ASL, 6, 3⟩, defaultEntry]

/-- Opcodes 0x10 to 0x1F of the map of R78. -/
def stdRow1 : List Entry := [
    ⟨.relative, .BPL, 2, 2⟩, ⟨.indirectY, .ORA, 5, 2⟩, defaultEntry, defaultEntry,
    defaultEntry, ⟨.zeroPageX, .ORA, 4, 2⟩, ⟨.zeroPageX, .ASL, 6, 2⟩, defaultEntry,
    ⟨.implicit, .CLC, 2, 1⟩, ⟨.absoluteY, .ORA, 4, 3⟩, defaultEntry, defaultEntry,
    defaultEntry, ⟨.absoluteX, .ORA, 4, 3⟩, ⟨.absoluteX, .ASL, 7, 3⟩, defaultEntry]

/-- Opcodes 0x20 to 0x2F of the map of R78. -/
def stdRow2 : List Entry := [
    ⟨.absolute, .JSR, 6, 3⟩, ⟨.indirectX, .AND, 6, 2⟩, defaultEntry, defaultEntry,
    ⟨.zeroPage, .BIT, 3, 2⟩, ⟨.zeroPage, .AND, 3, 2⟩, ⟨.zeroPage, .ROL, 5, 2⟩, defaultEntry,
    ⟨.implicit, .PLP, 4, 1⟩, ⟨.immediate, .AND, 2, 2⟩, ⟨.accumulator, .ROL, 2, 1⟩, defaultEntry,
    ⟨.absolute, .BIT, 4, 3⟩, ⟨.absolute, .AND, 4, 3⟩, ⟨.absolute, .ROL, 6, 3⟩, defaultEntry]

/-- Opcodes 0x30 to 0x3F of the map of R78. -/
def stdRow3 : List Entry := [
    ⟨.relative, .BMI, 2, 2⟩, ⟨.indirectY, .AND, 5, 2⟩, defaultEntry, defaultEntry,
    defaultEntry, ⟨.zeroPageX, .AND, 4, 2⟩, ⟨.zeroPageX, .ROL, 6, 2⟩, defaultEntry,
    ⟨.implicit, .SEC, 2, 1⟩, ⟨.absoluteY, .AND, 4, 3⟩, defaultEntry, defaultEntry,
    defaultEntry, ⟨.absoluteX, .AND, 4, 3⟩, ⟨.absoluteX, .ROL, 7, 3⟩, defaultEntry]

/-- Opcodes 0x40 to 0x4F of the map of R78. -/
def stdRow4 : List Entry := [
    ⟨.implicit, .RTI, 6, 1⟩, ⟨.indirectX, .EOR, 6, 2⟩, defaultEntry, defaultEntry,
    defaultEntry, ⟨.zeroPage, .EOR, 3, 2⟩, ⟨.zeroPage, .LSR, 5, 2⟩, defaultEntry,
    ⟨.implicit, .PHA, 3, 1⟩, ⟨.immediate, .EOR, 2, 2⟩, ⟨.accumulator, .LSR, 2, 1⟩, defaultEntry,
    ⟨.absolute, .JMP, 3, 3⟩, ⟨.absolute, .EOR, 4, 3⟩, ⟨.absolute, .LSR, 6, 3⟩, defaultEntry]

/-- Opcodes 0x50 to 0x5F of the map of R78. -/
def stdRow5 : List Entry := [
    ⟨.relative, .BVC, 2, 2⟩, ⟨.indirectY, .EOR, 5, 2⟩, defaultEntry, defaultEntry,
    defaultEntry, ⟨.zeroPageX, .EOR, 4, 2⟩, ⟨.zeroPageX, .LSR, 6, 2⟩, defaultEntry,
    ⟨.implicit, .CLI, 2, 1⟩, ⟨.absoluteY, .EOR, 4, 3⟩, defaultEntry, defaultEntry,
    defaultEntry, ⟨.absoluteX, .EOR, 4, 3⟩, ⟨.absoluteX, .LSR, 7, 3⟩, defaultEntry]

/-- Opcodes 0x60 to 0x6F of the map of R78. -/
def stdRow6 : List Entry := [
    ⟨.implicit, .RTS, 6, 1⟩, ⟨.indirectX, .ADC, 6, 2⟩, defaultEntry, defaultEntry,
    defaultEntry, ⟨.zeroPage, .ADC, 3, 2⟩, ⟨.zeroPage, .ROR, 5, 2⟩, defaultEntry,
    ⟨.implicit, .PLA, 4, 1⟩, ⟨.immediate, .ADC, 2, 2⟩, ⟨.accumulator, .ROR, 2, 1⟩, defaultEntry,
    ⟨.indirect, .JMP, 5, 3⟩, ⟨.absolute, .ADC, 4, 3⟩, ⟨.absolute, .ROR, 6, 3⟩, defaultEntry]

/-- Opcodes 0x70 to 0x7F of the map of R78. -/
def stdRow7 : List Entry := [
    ⟨.relative, .BVS, 2, 2⟩, ⟨.indirectY, .ADC, 5, 2⟩, defaultEntry, defaultEntry,
    defaultEntry, ⟨.zeroPageX, .ADC, 4, 2⟩, ⟨.zeroPageX, .ROR, 6, 2⟩, defaultEntry,
    ⟨.implicit, .SEI, 2, 1⟩, ⟨.absoluteY, .ADC, 4, 3⟩, defaultEntry, defaultEntry,
    defaultEntry, ⟨.absoluteX, .ADC, 4, 3⟩, ⟨.absoluteX, .ROR, 7, 3⟩, defaultEntry]

/-- Opcodes 0x80 to 0x8F of the map of R78. -/
def stdRow8 : List Entry := [
    defaultEntry, ⟨.indirectX, .STA, 6, 2⟩, defaultEntry, defaultEntry,
    ⟨.zeroPage, .STY, 3, 2⟩, ⟨.zeroPage, .STA, 3, 2⟩, ⟨.zeroPage, .STX, 3, 2⟩, defaultEntry,
    ⟨.implicit, .DEY, 2, 1⟩, defaultEntry, ⟨.implicit, .TXA, 2, 1⟩, defaultEntry,
    ⟨.absolute, .STY, 4, 3⟩, ⟨.absolute, .STA, 4, 3⟩, ⟨.absolute, .STX, 4, 3⟩, defaultEntry]

/-- Opcodes 0x90 to 0x9F of the map of R78. -/
def stdRow9 : List Entry := [
    ⟨.relative, .BCC, 2, 2⟩, ⟨.indirectY, .STA, 6, 2⟩, defaultEntry, defaultEntry,
    ⟨.zeroPageX, .STY, 4, 2⟩, ⟨.zeroPageX, .STA, 4, 2⟩, ⟨.zeroPageY, .STX, 4, 2⟩, defaultEntry,
    ⟨.implicit, .TYA, 2, 1⟩, ⟨.absoluteY, .STA, 5, 3⟩, ⟨.implicit, .TXS, 2, 1⟩, defaultEntry,
    defaultEntry, ⟨.absoluteX, .STA, 5, 3⟩, defaultEntry, defaultEntry]

/-- Opcodes 0xA0 to 0xAF of the map of R78. -/
def stdRowA : List Entry := [
    ⟨.immediate, .LDY, 2, 2⟩, ⟨.indirectX, .LDA, 6, 2⟩, ⟨.immediate, .LDX, 2, 2⟩, defaultEntry,
    ⟨.zeroPage, .LDY, 3, 2⟩, ⟨.zeroPage, .LDA, 3, 2⟩, ⟨.zeroPage, .LDX, 3, 2⟩, defaultEntry,
    ⟨.implicit, .TAY, 2, 1⟩, ⟨.immediate, .LDA, 2, 2⟩, ⟨.implicit, .TAX, 2, 1⟩, defaultEntry,
    ⟨.absolute, .LDY, 4, 3⟩, ⟨.absolute, .LDA, 4, 3⟩, ⟨.absolute, .LDX, 4, 3⟩, defaultEntry]

/-- Opcodes 0xB0 to 0xBF of the map of R78. -/
def stdRowB : List Entry := [
    ⟨.relative, .BCS, 2, 2⟩, ⟨.indirectY, .LDA, 5, 2⟩, defaultEntry, defaultEntry,
    ⟨.zeroPageX, .LDY, 4, 2⟩, ⟨.zeroPageX, .LDA, 4, 2⟩, ⟨.zeroPageY, .LDX, 4, 2⟩, defaultEntry,
    ⟨.implicit, .CLV, 2, 1⟩, ⟨.absoluteY, .LDA, 4, 3⟩, ⟨.implicit, .TSX, 2, 1⟩, defaultEntry,
    ⟨.absoluteX, .LDY, 4, 3⟩, ⟨.absoluteX, .LDA, 4, 3⟩, ⟨.absoluteY, .LDX, 4, 3⟩, defaultEntry]

/-- Opcodes 0xC0 to 0xCF of the map of R78. -/
def stdRowC : List Entry := [
    ⟨.immediate, .CPY, 2, 2⟩, ⟨.indirectX, .CMP, 6, 2⟩, defaultEntry, defaultEntry,
    ⟨.zeroPage, .CPY, 3, 2⟩, ⟨.zeroPage, .CMP, 3, 2⟩, ⟨.zeroPage, .DEC, 5, 2⟩, defaultEntry,
    ⟨.implicit, .INY, 2, 1⟩, ⟨.immediate, .CMP, 2, 2⟩, ⟨.implicit, .DEX, 2, 1⟩, defaultEntry,
    ⟨.absolute, .CPY, 4, 3⟩, ⟨.absolute, .CMP, 4, 3⟩, ⟨.absolute, .DEC, 6, 3⟩, defaultEntry]

/-- Opcodes 0xD0 to 0xDF of the map of R78. -/
def stdRowD : List Entry := [
    ⟨.relative, .BNE, 2, 2⟩, ⟨.indirectY, .CMP, 5, 2⟩, defaultEntry, defaultEntry,
    defaultEntry, ⟨.zeroPageX, .CMP, 4, 2⟩, ⟨.zeroPageX, .DEC, 6, 2⟩, defaultEntry,
    ⟨.implicit, .CLD, 2, 1⟩, ⟨.absoluteY, .CMP, 4, 3⟩, defaultEntry, defaultEntry,
    defaultEntry, ⟨.absoluteX, .CMP, 4, 3⟩, ⟨.absoluteX, .DEC, 7, 3⟩, defaultEntry]

/-- Opcodes 0xE0 to 0xEF of the map of R78. -/
def stdRowE : List Entry := [
    ⟨.immediate, .CPX, 2, 2⟩, ⟨.indirectX, .SBC, 6, 2⟩, defaultEntry, defaultEntry,
    ⟨.zeroPage, .CPX, 3, 2⟩, ⟨.zeroPage, .SBC, 3, 2⟩, ⟨.zeroPage, .INC, 5, 2⟩, defaultEntry,
    ⟨.implicit, .INX, 2, 1⟩, ⟨.immediate, .SBC, 2, 2⟩, ⟨.implicit, .NOP, 2, 1⟩, defaultEntry,
    ⟨.absolute, .CPX, 4, 3⟩, ⟨.absolute, .SBC, 4, 3⟩, ⟨.absolute, .INC, 6, 3⟩, defaultEntry]

/-- Opcodes 0xF0 to 0xFF of the map of R78. -/
def stdRowF : List Entry := [
    ⟨.relative, .BEQ, 2, 2⟩, ⟨.indirectY, .SBC, 5, 2⟩, defaultEntry, defaultEntry,
    defaultEntry, ⟨.zeroPageX, .SBC, 4, 2⟩, ⟨.zeroPageX, .INC, 6, 2⟩, defaultEntry,
    ⟨.implicit, .SED, 2, 1⟩, ⟨.absoluteY, .SBC, 4, 3⟩, defaultEntry, defaultEntry,
    defaultEntry, ⟨.absoluteX, .SBC, 4, 3⟩, ⟨.absoluteX, .INC, 7, 3⟩, defaultEntry]

/-- `STD_TABLE` of R77: the rows of R78's map, in order of the opcode's high nibble. -/
def stdTable : List Entry :=
  [stdRow0, stdRow1, stdRow2, stdRow3, stdRow4, stdRow5, stdRow6, stdRow7,
    stdRow8, stdRow9, stdRowA, stdRowB, stdRowC, stdRowD, stdRowE, stdRowF].flatten

/-- The 56 mnemonics in the order of R37. -/
def allMnemonics : List Mnemonic :=
  [.ADC, .AND, .ASL, .BCC, .BCS, .BEQ, .BIT, .BMI, .BNE, .BPL, .BRK, .BVC, .BVS, .CLC,
   .CLD, .CLI, .CLV, .CMP, .CPX, .CPY, .DEC, .DEX, .DEY, .EOR, .INC, .INX, .INY, .JMP,
   .JSR, .LDA, .LDX, .LDY, .LSR, .NOP, .ORA, .PHA, .PHP, .PLA, .PLP, .ROL, .ROR, .RTI,
   .RTS, .SBC, .SEC, .SED, .SEI, .STA, .STX, .STY, .TAX, .TAY, .TSX, .TXA, .TXS, .TYA]

/-- The 151 records that R79's table lists, as a description of R76 would give them. -/
def stdRecords : List Record :=
  allMnemonics.flatMap fun m => (pairs m).map fun q => ⟨q.2.1, ⟨q.1, m, q.2.2, 1 + modeBytes q.1⟩⟩

/-- The three named checks of R80 on one entry: `pair_legal`, `size_consistent`, `base_positive`. -/
def entryOk (e : Entry) : Bool :=
  legalPair e.mnemonic e.mode && e.size == 1 + modeBytes e.mode && decide (1 ≤ e.base)

/-- A list of exactly `n` entries, every one of which passes the three checks. -/
def entriesOk : Nat → List Entry → Bool
  | 0, [] => true
  | n + 1, e :: es =>
    match entryOk e with
    | true => entriesOk n es
    | false => false
  | 0, _ :: _ => false
  | _ + 1, [] => false

/-- R80: a table is admitted only if it has 256 entries (R35) and every one passes the three checks. -/
def admitted (t : List Entry) : Bool := entriesOk 256 t

/-- The default `PAGE_PENALTY_CLASS` of R7 (D16). -/
def readClass : List Mnemonic := [.ADC, .AND, .CMP, .EOR, .LDA, .LDX, .LDY, .ORA, .SBC]

/-- The parameters at their defaults (R7). `map := []` is the plain RAM over all 64 KB that 95_test_vectors.md takes
(DESIGN CHOICE, notes/assumptions/2.md), so that no collaborator is asked and its number is free to be 0. -/
def configStd : Config where
  table := stdTable
  cmpN := .unsignedLess
  decimal := .binary
  stubs := .fault
  pushMask := 0x00
  penaltyClass := readClass
  zpWrap := .wrap
  map := []
  collaborator := 0

/-- The `INIT` the model resets with (OPEN in the spec, D18): that of program P1 of 95_test_vectors.md
(DESIGN CHOICE, notes/assumptions/1.md). -/
def initStd : Init where
  a := 0x00
  x := 0x00
  y := 0x00
  sp := 0xFF
  p := 0x00
  pc := 0x0200

end Sys2Proof
end

