-- ==== Sys2Proof/WellFormed.lean ====
section
/-! DEFINITION. When an instruction is one the default table encodes, and when a configuration is one VCORE leaves reset
with (spec 30_encoding.md R79, R80; 00_scope.md R7). -/

namespace Sys2Proof

/-- Check `pair_legal` (R80) on an instruction: its mnemonic and its operand's mode are a pair of R79. -/
def Instr.pairLegal (i : Instr) : Bool := legalPair i.mnemonic i.operand.mode

/-- Check: the opcode of a `dflt` is one of the 105 that STD_TABLE leaves at the default entry (R78). -/
def Instr.opcodeUnnamed : Instr → Bool
  | .dflt op => stdTable[op.toNat]? == some defaultEntry
  | _ => true

/-- An instruction that STD_TABLE gives an encoding. -/
def Instr.wf (i : Instr) : Bool := i.pairLegal && i.opcodeUnnamed

/-- Check: `PUSH_B54_MASK` has set bits only among bits 5:4 (R7). -/
def Config.maskOk (c : Config) : Bool := c.pushMask &&& 0xCF == 0

/-- A configuration VCORE leaves reset with: its table is admitted (R80, R315) and its mask is one R7 allows. -/
def Config.wf (c : Config) : Bool := admitted c.table && c.maskOk

end Sys2Proof
end

