-- ==== Sys2Proof/Decode.lean ====
section
/-! DEFINITION. Decoding (spec 30_encoding.md R70 to R75): the opcode byte indexes the table, the entry's mode says how
many operand bytes follow, and the pair of mnemonic and mode is the instruction. After it, the encoder, from the table
of R79. -/

namespace Sys2Proof

/-- Why a list of bytes is not the start of an instruction: R85's truncated-instruction error, or an entry that fails
the check of R80 (which no admitted table holds: no opcode is undecodable, R74). -/
inductive DecodeError where
  | truncated
  | notAdmitted
  deriving DecidableEq, Repr

/-- The operand of a mode from the bytes after the opcode (R71, R73), with the bytes that are left. -/
def operandOf : Mode → List Byte → Option (Operand × List Byte)
  | .implicit, bs => some (.implicit, bs)
  | .accumulator, bs => some (.accumulator, bs)
  | .immediate, b :: bs => some (.immediate b, bs)
  | .zeroPage, b :: bs => some (.zeroPage b, bs)
  | .zeroPageX, b :: bs => some (.zeroPageX b, bs)
  | .zeroPageY, b :: bs => some (.zeroPageY b, bs)
  | .indirectX, b :: bs => some (.indirectX b, bs)
  | .indirectY, b :: bs => some (.indirectY b, bs)
  | .relative, b :: bs => some (.relative b, bs)
  | .absolute, lo :: hi :: bs => some (.absolute (hiLo hi lo), bs)
  | .absoluteX, lo :: hi :: bs => some (.absoluteX (hiLo hi lo), bs)
  | .absoluteY, lo :: hi :: bs => some (.absoluteY (hiLo hi lo), bs)
  | .indirect, lo :: hi :: bs => some (.indirect (hiLo hi lo), bs)
  | _, _ => none

/-- The instruction of a mnemonic with an operand, where the mnemonic takes an operand of that shape. -/
def shapeOf : Mnemonic → Operand → Option Instr
  | .ADC, o => some (.adc o)
  | .AND, o => some (.and o)
  | .ASL, o => some (.asl o)
  | .BCC, .relative off => some (.bcc off)
  | .BCC, _ => none
  | .BCS, .relative off => some (.bcs off)
  | .BCS, _ => none
  | .BEQ, .relative off => some (.beq off)
  | .BEQ, _ => none
  | .BIT, o => some (.bit o)
  | .BMI, .relative off => some (.bmi off)
  | .BMI, _ => none
  | .BNE, .relative off => some (.bne off)
  | .BNE, _ => none
  | .BPL, .relative off => some (.bpl off)
  | .BPL, _ => none
  | .BRK, .implicit => some .brk
  | .BRK, _ => none
  | .BVC, .relative off => some (.bvc off)
  | .BVC, _ => none
  | .BVS, .relative off => some (.bvs off)
  | .BVS, _ => none
  | .CLC, .implicit => some .clc
  | .CLC, _ => none
  | .CLD, .implicit => some .cld
  | .CLD, _ => none
  | .CLI, .implicit => some .cli
  | .CLI, _ => none
  | .CLV, .implicit => some .clv
  | .CLV, _ => none
  | .CMP, o => some (.cmp o)
  | .CPX, o => some (.cpx o)
  | .CPY, o => some (.cpy o)
  | .DEC, o => some (.dec o)
  | .DEX, .implicit => some .dex
  | .DEX, _ => none
  | .DEY, .implicit => some .dey
  | .DEY, _ => none
  | .EOR, o => some (.eor o)
  | .INC, o => some (.inc o)
  | .INX, .implicit => some .inx
  | .INX, _ => none
  | .INY, .implicit => some .iny
  | .INY, _ => none
  | .JMP, o => some (.jmp o)
  | .JSR, .absolute w => some (.jsr w)
  | .JSR, _ => none
  | .LDA, o => some (.lda o)
  | .LDX, o => some (.ldx o)
  | .LDY, o => some (.ldy o)
  | .LSR, o => some (.lsr o)
  | .NOP, .implicit => some .nop
  | .NOP, _ => none
  | .ORA, o => some (.ora o)
  | .PHA, .implicit => some .pha
  | .PHA, _ => none
  | .PHP, .implicit => some .php
  | .PHP, _ => none
  | .PLA, .implicit => some .pla
  | .PLA, _ => none
  | .PLP, .implicit => some .plp
  | .PLP, _ => none
  | .ROL, o => some (.rol o)
  | .ROR, o => some (.ror o)
  | .RTI, .implicit => some .rti
  | .RTI, _ => none
  | .RTS, .implicit => some .rts
  | .RTS, _ => none
  | .SBC, o => some (.sbc o)
  | .SEC, .implicit => some .sec
  | .SEC, _ => none
  | .SED, .implicit => some .sed
  | .SED, _ => none
  | .SEI, .implicit => some .sei
  | .SEI, _ => none
  | .STA, o => some (.sta o)
  | .STX, o => some (.stx o)
  | .STY, o => some (.sty o)
  | .TAX, .implicit => some .tax
  | .TAX, _ => none
  | .TAY, .implicit => some .tay
  | .TAY, _ => none
  | .TSX, .implicit => some .tsx
  | .TSX, _ => none
  | .TXA, .implicit => some .txa
  | .TXA, _ => none
  | .TXS, .implicit => some .txs
  | .TXS, _ => none
  | .TYA, .implicit => some .tya
  | .TYA, _ => none

/-- The instruction of a mnemonic and an operand: a pair of R79, or none. -/
def instrOf (m : Mnemonic) (o : Operand) : Option Instr := if legalPair m o.mode then shapeOf m o else none

/-- The instruction that an entry makes of an opcode and its operand: the default entry (R75) keeps the opcode. -/
def instrOfEntry (e : Entry) (op : Byte) (o : Operand) : Option Instr :=
  if e = defaultEntry then some (.dflt op) else instrOf e.mnemonic o

/-- Decoding from an entry and the bytes after its opcode. -/
def decodeEntry (e : Entry) (op : Byte) (bs : List Byte) : Except DecodeError (Instr × List Byte) :=
  match operandOf e.mode bs with
  | none => .error .truncated
  | some (o, rest) =>
    match instrOfEntry e op o with
    | none => .error .notAdmitted
    | some i => .ok (i, rest)

/-- The decoder of a table (R74): total on any bytes. -/
def decodeWith (t : List Entry) : List Byte → Except DecodeError (Instr × List Byte)
  | [] => .error .truncated
  | op :: bs =>
    match t[op.toNat]? with
    | none => .error .notAdmitted
    | some e => decodeEntry e op bs

/-- The decoder of the default table. -/
def decode (bs : List Byte) : Except DecodeError (Instr × List Byte) := decodeWith stdTable bs

/-- Byte `k` of a number whose bits are numbered as spec/opcode_table.json numbers them. -/
def byteOfNat (w k : Nat) : Byte := BitVec.ofNat 8 (w / 256 ^ k)

/-- The three bytes (the longest instruction, R70) of an instruction given as a number of `nbits` bits: the bits above
`nbits` are zero, and the first byte is the least significant. -/
def tableWordBytes (nbits w : Nat) : List Byte :=
  let v := w % 2 ^ nbits
  [byteOfNat v 0, byteOfNat v 1, byteOfNat v 2]

/-- What the decoder reads from a row's word (the host's question). -/
def decodeTableWord (nbits w : Nat) : Option Instr :=
  match decode (tableWordBytes nbits w) with
  | .ok (i, _) => some i
  | .error _ => none

/-! ### The encoder -/

/-- The operand bytes of an instruction, in the order they are fetched: low byte first (R53, R71). -/
def operandBytes : Operand → List Byte
  | .implicit => []
  | .accumulator => []
  | .immediate b => [b]
  | .zeroPage b => [b]
  | .zeroPageX b => [b]
  | .zeroPageY b => [b]
  | .indirectX b => [b]
  | .indirectY b => [b]
  | .relative b => [b]
  | .absolute w => [lo8 w, hi8 w]
  | .absoluteX w => [lo8 w, hi8 w]
  | .absoluteY w => [lo8 w, hi8 w]
  | .indirect w => [lo8 w, hi8 w]

/-- The opcode R79 gives a pair of mnemonic and mode. -/
def opcodeOf (m : Mnemonic) (md : Mode) : Option Byte :=
  ((pairs m).find? fun q => q.1 == md).map fun q => q.2.1

/-- The opcode byte of an instruction in STD_TABLE. An instruction that is not well-formed has none (R80), and 0x00
stands for it. -/
def Instr.opcode (i : Instr) : Byte :=
  match i with
  | .dflt op => op
  | i => (opcodeOf i.mnemonic i.operand.mode).getD 0x00

/-- The bytes of a well-formed instruction in STD_TABLE (R70, R71). -/
def encode (i : Instr) : List Byte := i.opcode :: operandBytes i.operand

/-- The length of an instruction in bytes, from its mode (R72). -/
def Instr.length (i : Instr) : Nat := 1 + modeBytes i.operand.mode

end Sys2Proof
end

