-- ==== Sys2Proof/Machine/Flags.lean ====
section
/-! DEFINITION. The status byte and every flag computation of the spec (10_state.md R25 to R30, 41_arith_compare.md R141,
R143, 42_logic_bit.md R163, 43_shift_incdec.md R180 to R183), as functions on bytes. -/

namespace Sys2Proof.Machine

/-- The six flags that P packs (R25). Bits 5:4 are no flags (R27). -/
inductive Flag where
  | n | v | d | i | z | c
  deriving DecidableEq, Repr

/-- Each flag's bit of P (R25). -/
def Flag.bit : Flag → Nat
  | .n => 7
  | .v => 6
  | .d => 3
  | .i => 2
  | .z => 1
  | .c => 0

/-- Reading a flag. -/
def flag (f : Flag) (p : Byte) : Bool := p.getLsbD f.bit

/-- Writing a flag: exactly that bit changes (R26). -/
def setFlag (f : Flag) (b : Bool) (p : Byte) : Byte :=
  (p &&& ~~~((1 : Byte) <<< f.bit)) ||| ((if b then 1 else 0 : Byte) <<< f.bit)

/-- `SetNZ(v)` (R8). -/
def setNZ (v : Byte) (p : Byte) : Byte := setFlag .z (v == 0) (setFlag .n (v.getLsbD 7) p)

/-- `AddCore(a, m, cin)` (R141): the result, the carry and the overflow, from the 9-bit sum. -/
def addCore (a m : Byte) (cin : Bool) : Byte × Bool × Bool :=
  let s : BitVec 9 := a.setWidth 9 + m.setWidth 9 + (if cin then 1 else 0)
  let r : Byte := s.setWidth 8
  (r, s.getLsbD 8, ((a ^^^ r) &&& (m ^^^ r)).getLsbD 7)

/-- The flags ADC and SBC write (R140, R142): C, V, N and Z. -/
def adderFlags (out : Byte × Bool × Bool) (p : Byte) : Byte :=
  setNZ out.1 (setFlag .v out.2.2 (setFlag .c out.2.1 p))

/-- `Compare(reg, m)` (R143): C, Z and N, the last by `CMP_N_POLICY`. -/
def compareFlags (negativeIsLess : Bool) (reg m : Byte) (p : Byte) : Byte :=
  let negative := if negativeIsLess then decide (reg < m) else (reg - m).getLsbD 7
  setFlag .n negative (setFlag .c (decide (m ≤ reg)) (setFlag .z (reg == m) p))

/-- BIT (R163): Z from the AND, N and V from bits 7 and 6 of the operand. -/
def bitFlags (a m : Byte) (p : Byte) : Byte :=
  setFlag .v (m.getLsbD 6) (setFlag .n (m.getLsbD 7) (setFlag .z ((a &&& m) == 0) p))

/-- A shift's result with the bit that goes to C. -/
structure Shifted where
  result : Byte
  carry : Bool
  deriving DecidableEq, Repr

/-- ASL (R180). -/
def shiftLeft (m : Byte) : Shifted := ⟨m <<< 1, m.getLsbD 7⟩

/-- LSR (R181). -/
def shiftRight (m : Byte) : Shifted := ⟨m >>> 1, m.getLsbD 0⟩

/-- ROL (R182): the old C enters at bit 0. -/
def rotateLeft (cin : Bool) (m : Byte) : Shifted := ⟨(m <<< 1) ||| (if cin then 0x01 else 0x00), m.getLsbD 7⟩

/-- ROR (R183): the old C enters at bit 7. -/
def rotateRight (cin : Bool) (m : Byte) : Shifted := ⟨(m >>> 1) ||| (if cin then 0x80 else 0x00), m.getLsbD 0⟩

/-- The flags a shift or rotate writes (R180 to R183): C, N and Z. -/
def shiftFlags (r : Shifted) (p : Byte) : Byte := setNZ r.result (setFlag .c r.carry p)

end Sys2Proof.Machine
end

