-- ==== Sys2Proof/Machine/State.lean ====
section
/-! DEFINITION. The state of VCORE (spec 10_state.md R20 to R33, R43), the faults its FAULT register records
(60_exceptions.md R300), the refusals of the model, and the state after reset (70_reset_and_hazards.md R320). -/

namespace Sys2Proof.Machine

/-- The faults of R300, codes 1 to 4. NONE is no fault: the FAULT register is an `Option Fault`.
A fault is TAKEN in this model: the step answers a next state that is halted and whose FAULT and FAULT_ADDR hold the
fault (R302, R303), so no step answers the host interface's `fault` (notes/assumptions/5.md). Safe: nothing is stopped. -/
inductive Fault where
  /-- Raised by BRK when `INTERRUPT_STUBS` is `fault` (R283). Safe: the halt R303 describes is taken. -/
  | unsupportedBrk
  /-- Raised by RTI when `INTERRUPT_STUBS` is `fault` (R284). Safe: the halt R303 describes is taken. -/
  | unsupportedRti
  /-- Raised by ADC and SBC when P.D is 1 and `DECIMAL_POLICY` is `fault` (R29). Safe: the halt of R303 is taken. -/
  | unsupportedDecimal
  /-- Raised by any read that the memory collaborator answers with ERR (R50). Safe: the halt of R303 is taken. -/
  | memRead
  deriving DecidableEq, Repr

/-- Why the model gives no next state. -/
inductive Refusal where
  /-- Raised by an arm of `exec` whose instruction has no meaning yet: no arm is so now. Safe: no state is claimed. -/
  | notModelled (mnemonic : String)
  /-- Raised by a meaning given a mode that R79 does not pair with its mnemonic (R80 `pair_legal`, R120): no admitted
  table holds such a pair, so no step from a well-formed configuration raises it. Safe: no state is claimed. -/
  | illegalPair
  /-- Raised by `step` and by the host's reset when the table fails R80: with such a table reset does not complete and no
  `step_req` is accepted (R315). Safe: no state is claimed. -/
  | tableNotAdmitted
  deriving DecidableEq, Repr

/-- The state. The first ten fields are all of VCORE's state (R43). `mem` is the contents the memory collaborator holds
(R50). The last three are the model's own: `cfg` holds the parameters (R7; no step changes them,
notes/assumptions/4.md), `devLog` is what the collaborator's `device` regions have seen (notes/assumptions/3.md), and `bus`
holds the memory transactions of the last step that ran, oldest first (R42, R57; notes/assumptions/6.md). -/
structure State where
  /-- Accumulator (R21). -/
  a : Byte
  /-- Index register X (R22). -/
  x : Byte
  /-- Index register Y (R23). -/
  y : Byte
  /-- Stack pointer (R24). -/
  sp : Byte
  /-- Status byte (R25), held whole: bits 5:4 are plain storage (R27). -/
  p : Byte
  /-- Program counter (R31). -/
  pc : Word
  /-- Cycle counter CYC, unbounded (R32). -/
  cyc : Nat
  /-- HALTED (R33). -/
  halted : Bool
  /-- FAULT (R33): `none` is NONE. -/
  fault : Option Fault
  /-- FAULT_ADDR (R33). -/
  faultAddr : Word
  /-- Contents of the 64 KB space (R51): strictly rising addresses, no entry equal to an unlisted byte. -/
  mem : List Host.Cell
  /-- The parameters (R7). The model's own place for them. -/
  cfg : Config
  /-- Every transaction made with a `device` region, oldest first: an argument of the free value. The model's own. -/
  devLog : List Access
  /-- The memory transactions of the last step that ran. The model's own. -/
  bus : List Access
  deriving DecidableEq, Repr

/-- What reset loads (R320): the registers from `INIT`, CYC 0, HALTED 0, FAULT NONE, FAULT_ADDR 0x0000. It makes no
memory access, so the contents stay and no transaction is listed. -/
def State.resetWith (i : Init) (s : State) : State :=
  { s with
    a := i.a, x := i.x, y := i.y, sp := i.sp, p := i.p, pc := i.pc
    cyc := 0, halted := false, fault := none, faultAddr := 0x0000, bus := [] }

/-- The machine right after reset, with the default parameters and the model's `INIT` (notes/assumptions/1.md), memory
with nothing listed and no device transaction made. -/
def State.reset : State where
  a := initStd.a
  x := initStd.x
  y := initStd.y
  sp := initStd.sp
  p := initStd.p
  pc := initStd.pc
  cyc := 0
  halted := false
  fault := none
  faultAddr := 0x0000
  mem := []
  cfg := configStd
  devLog := []
  bus := []

end Sys2Proof.Machine
end

