-- ==== Sys2Proof/Machine/Memory.lean ====
section
/-! DEFINITION. The contents of memory as a list of cells in one canonical form, and the collaborator's address map
(spec 20_memory.md R50 to R52, R54). -/

namespace Sys2Proof.Machine

/-- What an address that the list does not hold reads as: 95_test_vectors.md's "every unlisted byte 0"
(DESIGN CHOICE, notes/assumptions/2.md). -/
def unlistedByte : Byte := 0x00

/-- The contents at an address. -/
def Memory.get : List Host.Cell → Nat → Byte
  | [], _ => unlistedByte
  | (k, v) :: t, a => if k = a then v else Memory.get t a

/-- A cell in front of the rest, unless it holds what an unlisted address reads as. -/
def Memory.cons (a : Nat) (v : Byte) (t : List Host.Cell) : List Host.Cell :=
  if v = unlistedByte then t else (a, v) :: t

/-- The contents after a byte is stored. It keeps the canonical form (Laws/Memory.lean). -/
def Memory.set : List Host.Cell → Nat → Byte → List Host.Cell
  | [], a, v => Memory.cons a v []
  | (k, w) :: t, a, v =>
    if k < a then (k, w) :: Memory.set t a v
    else if k = a then Memory.cons a v t
    else Memory.cons a v ((k, w) :: t)

/-- The canonical form above a bound: addresses strictly rise, lie in the 64 KB space (R51), and no cell holds what an
unlisted address reads as. -/
def Memory.wfFrom : Nat → List Host.Cell → Bool
  | _, [] => true
  | lo, (k, v) :: t => decide (lo ≤ k) && decide (k < 65536) && decide (v ≠ unlistedByte) && Memory.wfFrom (k + 1) t

/-- The canonical form: two memories that hold the same bytes are the same list. -/
def Memory.wf (m : List Host.Cell) : Bool := Memory.wfFrom 0 m

/-- Whether a region holds an address. -/
def inRegion (r : Region) (a : Nat) : Bool := decide (r.base ≤ a) && decide (a < r.base + r.size)

/-- What the collaborator is at an address: the first region that holds it, and `plain` where none does. -/
def kindAt (map : List Region) (a : Word) : RegionKind :=
  match map.find? fun r => inRegion r a.toNat with
  | some r => r.kind
  | none => .plain

end Sys2Proof.Machine
end

