-- ==== Sys2Proof/Machine/Ops.lean ====
section
/-! DEFINITION. The named operations over registers, memory and the run state: the memory port (spec 20_memory.md R50),
the stack primitives (R55), taking a fault (60_exceptions.md R300, R302, R303), and BRK's trap entry with RTI's return
(47_flags_system.md R283, R284, 60_exceptions.md R306, R307). -/

namespace Sys2Proof.Machine

/-- What one instruction answers. -/
abbrev Answer := Host.Outcome State Fault Refusal

/-! ### Registers: one accessor to write each -/

def State.setA (v : Byte) (s : State) : State := { s with a := v }
def State.setX (v : Byte) (s : State) : State := { s with x := v }
def State.setY (v : Byte) (s : State) : State := { s with y := v }
def State.setSP (v : Byte) (s : State) : State := { s with sp := v }
def State.setP (v : Byte) (s : State) : State := { s with p := v }
def State.setPC (v : Word) (s : State) : State := { s with pc := v }

/-- `CYC <- CYC + n` (R124). -/
def State.addCyc (n : Nat) (s : State) : State := { s with cyc := s.cyc + n }

/-! ### Results that may raise a fault -/

/-- What a part of a step gives: a value with the state reached, or a fault with the address that FAULT_ADDR is to
record (R300) and the state at the fault. -/
inductive Res (α : Type) where
  | ok (v : α) (s : State)
  | fail (f : Fault) (a : Word) (s : State)
  deriving DecidableEq, Repr

/-- One part of a step after another: nothing runs after a fault (R304). -/
def Res.bind {α β : Type} (r : Res α) (k : α → State → Res β) : Res β :=
  match r with
  | .ok v s => k v s
  | .fail f a s => .fail f a s

/-! ### The memory port -/

/-- What the collaborator answers to a read (R50, R52, R56): `none` is ERR. -/
def portAnswer (s : State) (a : Word) : Option Byte :=
  match kindAt s.cfg.map a with
  | .plain | .readOnly => some (Memory.get s.mem a.toNat)
  | .gap => some 0x00
  | .unserved => none
  | .device => deviceAnswer s.cfg.collaborator s.devLog a

/-- What the `device` regions have seen after a transaction at an address. -/
def deviceLog (s : State) (a : Word) (x : Access) : List Access :=
  if kindAt s.cfg.map a = .device then s.devLog ++ [x] else s.devLog

/-- The state after a read: the transaction is listed, and a device has seen it. -/
def State.logRead (a : Word) (s : State) : State :=
  { s with
    bus := s.bus ++ [.rd a (portAnswer s a)]
    devLog := deviceLog s a (.rd a (portAnswer s a)) }

/-- `MemRead(a)` (R50): an ERR answer raises `MEM_READ`, which records the address of the read (R300). -/
def readByte (a : Word) (s : State) : Res Byte :=
  match portAnswer s a with
  | some v => .ok v (s.logRead a)
  | none => .fail .memRead a (s.logRead a)

/-- `MemWrite(a, v)` (R50): a write never fails. A `plain` region keeps it (R58), a device has seen it (R56), and any other
region discards it (R52). -/
def writeByte (a : Word) (v : Byte) (s : State) : State :=
  { s with
    bus := s.bus ++ [.wr a v]
    devLog := deviceLog s a (.wr a v)
    mem := match kindAt s.cfg.map a with
      | .plain => Memory.set s.mem a.toNat v
      | .readOnly | .gap | .unserved | .device => s.mem }

/-! ### The stack (R24, R55) -/

/-- The byte the stack pointer addresses: `0x0100 + SP`, always in page 1. -/
def stackAddr (sp : Byte) : Word := hiLo 0x01 sp

/-- `Push(v)`: write, then decrement. -/
def push (v : Byte) (s : State) : State := (writeByte (stackAddr s.sp) v s).setSP (s.sp - 1)

/-- `Pull()`: increment, then read. -/
def pull (s : State) : Res Byte := readByte (stackAddr (s.sp + 1)) (s.setSP (s.sp + 1))

/-! ### Taking a fault (R300, R302, R303) -/

/-- A fault rolls A, X, Y, SP, P, PC and CYC back to the snapshot taken at the start of the step (R100, R302), then sets
HALTED, FAULT and FAULT_ADDR (R303). What the step did to memory is not undone: R302 holds because no write comes before
a read or a check, and is stated of the model as a claim. The reads made stay made. -/
def takeFault (snapshot : State) (f : Fault) (a : Word) (s : State) : State :=
  { s with
    a := snapshot.a, x := snapshot.x, y := snapshot.y, sp := snapshot.sp, p := snapshot.p
    pc := snapshot.pc, cyc := snapshot.cyc
    halted := true, fault := some f, faultAddr := a }

/-- The code of a FAULT register (R300's own numbering). -/
def faultCode : Option Fault → Nat
  | none => 0
  | some .unsupportedBrk => 1
  | some .unsupportedRti => 2
  | some .unsupportedDecimal => 3
  | some .memRead => 4

/-! ### The software trap of `INTERRUPT_STUBS = nmos` -/

/-- Trap entry (R283, R306): the vector at 0xFFFE and 0xFFFF is read before any write (R57), the return address (one
past the padding byte) and `P OR 0x30` are pushed, P.I is set and PC takes the vector. PC is the address after the opcode. -/
def trapEntry (s : State) : Res Unit :=
  (readByte 0xFFFE s).bind fun lo s =>
  (readByte 0xFFFF s).bind fun hi s =>
    let ret := s.pc + 1
    let s := push (s.p ||| 0x30) (push (lo8 ret) (push (hi8 ret) s))
    .ok () ((s.setP (setFlag .i true s.p)).setPC (hiLo hi lo))

/-- Trap return (R284, R307): P and then PC are pulled, all 8 bits of P are written, and PC gets no +1. -/
def trapReturn (s : State) : Res Unit :=
  (pull s).bind fun p s =>
  (pull (s.setP p)).bind fun lo s =>
  (pull s).bind fun hi s =>
    .ok () (s.setPC (hiLo hi lo))

end Sys2Proof.Machine
end

