-- ==== Sys2Proof/Machine/Operands.lean ====
section
/-! DEFINITION. The decode context (spec 10_state.md R40), the 13 resolvers (40_dispatch_addressing.md R101 to R114), the
operand helpers (R120, R121), the branch (46_control.md R254, R122), the cycle accounting (R123, R124), and the one
driver that every meaning goes through (R100). -/

namespace Sys2Proof.Machine

/-- The decode context (R40): made anew for each step and never kept (R41). `opAddr` is the model's own, the PC of the
snapshot (R100), which the `UNSUPPORTED` faults record (R300). -/
structure Ctx where
  mode : Mode
  opAddr : Word
  opnd : Byte := 0
  ea : Word := 0
  off : Byte := 0
  pcCross : Bool := false
  taken : Bool := false
  extra : Nat := 0
  deriving DecidableEq, Repr

/-- `PtrNext(p)` (R114): where a zero-page pointer's high byte lies. -/
def ptrNext (w : ZpPtrWrap) (p : Byte) : Word :=
  match w with
  | .wrap => zext16 (p + 1)
  | .linear => zext16 p + 1

/-- Where the Indirect mode takes its target's high byte from (R112): the indirection bug keeps it in the page. -/
def indirectNext (ptr : Word) : Word := if lo8 ptr = 0xFF then hiLo (hi8 ptr) 0x00 else ptr + 1

/-- The resolvers (R101 to R113). The operand bytes have been fetched, so PC moves past the whole instruction (R31). -/
def resolve (o : Operand) (s0 : State) : Res Ctx :=
  let s := s0.setPC (s0.pc + BitVec.ofNat 16 (1 + modeBytes o.mode))
  let c : Ctx := { mode := o.mode, opAddr := s0.pc }
  match o with
  | .implicit => .ok c s
  | .accumulator => .ok c s
  | .immediate b => .ok { c with opnd := b } s
  | .zeroPage b => .ok { c with ea := zext16 b } s
  | .zeroPageX b => .ok { c with ea := zext16 (b + s.x) } s
  | .zeroPageY b => .ok { c with ea := zext16 (b + s.y) } s
  | .absolute w => .ok { c with ea := w } s
  | .absoluteX w => .ok { c with ea := w + zext16 s.x, pcCross := pagesDiffer (w + zext16 s.x) w } s
  | .absoluteY w => .ok { c with ea := w + zext16 s.y, pcCross := pagesDiffer (w + zext16 s.y) w } s
  | .indirectX b =>
    (readByte (zext16 (b + s.x)) s).bind fun lo s =>
    (readByte (ptrNext s.cfg.zpWrap (b + s.x)) s).bind fun hi s =>
      .ok { c with ea := hiLo hi lo } s
  | .indirectY p =>
    (readByte (zext16 p) s).bind fun lo s =>
    (readByte (ptrNext s.cfg.zpWrap p) s).bind fun hi s =>
      .ok { c with ea := hiLo hi lo + zext16 s.y, pcCross := decide (0xFF < lo.toNat + s.y.toNat) } s
  | .indirect ptr =>
    (readByte ptr s).bind fun lo s =>
    (readByte (indirectNext ptr) s).bind fun hi s =>
      .ok { c with ea := hiLo hi lo } s
  | .relative off => .ok { c with off := off } s

/-- `Load()` (R120). A mode with no operand to load never reaches it (the driver refuses the pair, R80); there the
context's `opnd` is the 0 that R40 gives a field its mode does not set. -/
def load (c : Ctx) (s : State) : Res Byte :=
  match c.mode with
  | .immediate => .ok c.opnd s
  | .accumulator => .ok s.a s
  | .zeroPage | .zeroPageX | .zeroPageY | .absolute | .absoluteX | .absoluteY
  | .indirectX | .indirectY => readByte c.ea s
  | .implicit | .relative | .indirect => .ok c.opnd s

/-- `Store(v)` (R120, R121): to A in Accumulator mode, else through `ea`. A mode with nowhere to store never reaches it. -/
def store (c : Ctx) (v : Byte) (s : State) : State :=
  match c.mode with
  | .accumulator => s.setA v
  | .zeroPage | .zeroPageX | .zeroPageY | .absolute | .absoluteX | .absoluteY
  | .indirectX | .indirectY => writeByte c.ea v s
  | .immediate | .implicit | .relative | .indirect => s

/-- `Branch(cond)` (R254): only the flags of the context are set, and the sequencer moves PC (R122). -/
def branch (cond : Bool) (c : Ctx) (s : State) : Res Ctx :=
  if cond then .ok { c with taken := true, pcCross := pagesDiffer (s.pc + sext16 c.off) s.pc } s else .ok c s

/-- The modes whose resolver can set the page-crossed flag (R123). -/
def canCross : Mode → Bool
  | .absoluteX | .absoluteY | .indirectY => true
  | .implicit | .accumulator | .immediate | .zeroPage | .zeroPageX | .zeroPageY
  | .absolute | .indirectX | .indirect | .relative => false

/-- `Penalty(e, ctx)` (R123). -/
def penalty (cls : List Mnemonic) (m : Mnemonic) (c : Ctx) : Nat :=
  bitNat (cls.contains m && canCross c.mode && c.pcCross)

/-- The branch's own cycles, `br` of R100: 1 when taken, and 1 more across a page (R122). -/
def branchCycles (c : Ctx) : Nat := if c.taken then 1 + bitNat c.pcCross else 0

/-- Step 4 and the extra cycles of step 5 (R100, R122, R124). The entry's base count is added where the entry is known,
in the step. -/
def finish (m : Mnemonic) (c : Ctx) (s : State) : State :=
  (s.setPC (if c.taken then s.pc + sext16 c.off else s.pc)).addCyc
    (c.extra + penalty s.cfg.penaltyClass m c + branchCycles c)

/-- The driver of R100: resolve, execute, apply the branch, count the cycles, and take a fault raised on the way. It
refuses a pair that R79 does not list (R80). `s` is the snapshot: its PC is the opcode's address. -/
def run (m : Mnemonic) (o : Operand) (routine : Ctx → State → Res Ctx) (s : State) : Answer :=
  if legalPair m o.mode then
    match (resolve o s).bind routine with
    | .ok c t => .next (finish m c t)
    | .fail f a t => .next (takeFault s f a t)
  else .refused .illegalPair

/-- The support check of ADC and SBC, first in the routine (R29, R140, R142, R304). -/
def decimalCheck (c : Ctx) (s : State) : Res Unit :=
  if s.cfg.decimal = .fault ∧ flag .d s.p = true then .fail .unsupportedDecimal c.opAddr s else .ok () s

/-! ### Shapes of routine that several instructions share -/

/-- A read instruction: one `Load()`, then an update of the state. -/
def readInto (f : Byte → State → State) (c : Ctx) (s : State) : Res Ctx :=
  (load c s).bind fun m s => .ok c (f m s)

/-- A read-modify-write instruction: one `Load()`, then one `Store()` at the same place, then P (R120). -/
def modify (f : State → Byte → Byte) (flags : State → Byte → Byte) (c : Ctx) (s : State) : Res Ctx :=
  (load c s).bind fun m s => .ok c ((store c (f s m) s).setP (flags s m))

/-- A routine that only updates the state. -/
def update (f : State → State) (c : Ctx) (s : State) : Res Ctx := .ok c (f s)

/-- The accumulator update of §4.2: A gets a value, and N and Z follow it. -/
def State.updateA (v : Byte) (s : State) : State := (s.setA v).setP (setNZ v s.p)
/-- X gets a value, and N and Z follow it. -/
def State.updateX (v : Byte) (s : State) : State := (s.setX v).setP (setNZ v s.p)
/-- Y gets a value, and N and Z follow it. -/
def State.updateY (v : Byte) (s : State) : State := (s.setY v).setP (setNZ v s.p)

end Sys2Proof.Machine
end

