-- ==== Sys2Proof/Machine/Arith.lean ====
section
/-! DEFINITION. Arithmetic and compare: ADC, SBC, CMP, CPX, CPY (spec 41_arith_compare.md R140 to R147). -/

namespace Sys2Proof.Machine

/-- ADC and SBC share the adder (R141): the support check, the load, the sum with `P.C` as carry in, then A and the
flags. `invert` is SBC's one's complement (R142). -/
def addInto (invert : Bool) (c : Ctx) (s : State) : Res Ctx :=
  (decimalCheck c s).bind fun _ s =>
  (load c s).bind fun m s =>
    let out := addCore s.a (if invert then m ^^^ 0xFF else m) (flag .c s.p)
    .ok c ((s.setA out.1).setP (adderFlags out s.p))

/-- CMP, CPX and CPY write only C, Z and N (R143), N by `CMP_N_POLICY`. -/
def compareWith (reg : State → Byte) (m : Byte) (s : State) : State :=
  s.setP (compareFlags (s.cfg.cmpN == .unsignedLess) (reg s) m s.p)

/-- ADC, add with carry (R140). -/
def execAdc (o : Operand) (s : State) : Answer :=
  run .ADC o (addInto false) s

/-- SBC, subtract with carry: the one's complement added (R142). -/
def execSbc (o : Operand) (s : State) : Answer :=
  run .SBC o (addInto true) s

/-- CMP, compare accumulator (R144). -/
def execCmp (o : Operand) (s : State) : Answer :=
  run .CMP o (readInto (compareWith State.a)) s

/-- CPX, compare X (R145). -/
def execCpx (o : Operand) (s : State) : Answer :=
  run .CPX o (readInto (compareWith State.x)) s

/-- CPY, compare Y (R146). -/
def execCpy (o : Operand) (s : State) : Answer :=
  run .CPY o (readInto (compareWith State.y)) s

end Sys2Proof.Machine
end

