-- ==== Sys2Proof/Machine/Control.lean ====
section
/-! DEFINITION. Control transfer: JMP, JSR, RTS and the branches (spec 46_control.md R250 to R263). -/

namespace Sys2Proof.Machine

/-- JMP: no read at `ea` (R250). -/
def execJmp (o : Operand) (s : State) : Answer :=
  run .JMP o (fun c s => .ok c (s.setPC c.ea)) s

/-- JSR's routine (R252): the address of its last byte is pushed high byte first, then PC takes the target. -/
def callTo (c : Ctx) (s : State) : Res Ctx :=
  let ret := s.pc - 1
  .ok c ((push (lo8 ret) (push (hi8 ret) s)).setPC c.ea)

/-- JSR, jump to subroutine (R252). -/
def execJsr (target : Word) (s : State) : Answer :=
  run .JSR (.absolute target) (callTo) s

/-- RTS's routine (R253): the low byte is pulled first, and PC is one past the pulled address. -/
def returnFrom (c : Ctx) (s : State) : Res Ctx :=
  (pull s).bind fun lo s =>
  (pull s).bind fun hi s => .ok c (s.setPC (hiLo hi lo + 1))

/-- RTS, return from subroutine (R253). -/
def execRts (s : State) : Answer :=
  run .RTS .implicit (returnFrom) s

/-- BCC: branch if P.C = 0 (R256, R255). -/
def execBcc (off : Byte) (s : State) : Answer :=
  run .BCC (.relative off) (fun c s => branch (!flag .c s.p) c s) s

/-- BCS: branch if P.C = 1 (R257, R255). -/
def execBcs (off : Byte) (s : State) : Answer :=
  run .BCS (.relative off) (fun c s => branch (flag .c s.p) c s) s

/-- BEQ: branch if P.Z = 1 (R258, R255). -/
def execBeq (off : Byte) (s : State) : Answer :=
  run .BEQ (.relative off) (fun c s => branch (flag .z s.p) c s) s

/-- BNE: branch if P.Z = 0 (R259, R255). -/
def execBne (off : Byte) (s : State) : Answer :=
  run .BNE (.relative off) (fun c s => branch (!flag .z s.p) c s) s

/-- BMI: branch if P.N = 1 (R260, R255). -/
def execBmi (off : Byte) (s : State) : Answer :=
  run .BMI (.relative off) (fun c s => branch (flag .n s.p) c s) s

/-- BPL: branch if P.N = 0 (R261, R255). -/
def execBpl (off : Byte) (s : State) : Answer :=
  run .BPL (.relative off) (fun c s => branch (!flag .n s.p) c s) s

/-- BVC: branch if P.V = 0 (R262, R255). -/
def execBvc (off : Byte) (s : State) : Answer :=
  run .BVC (.relative off) (fun c s => branch (!flag .v s.p) c s) s

/-- BVS: branch if P.V = 1 (R263, R255). -/
def execBvs (off : Byte) (s : State) : Answer :=
  run .BVS (.relative off) (fun c s => branch (flag .v s.p) c s) s

end Sys2Proof.Machine
end

