-- ==== Sys2Proof/Machine/Load.lean ====
section
/-! DEFINITION. Loads, stores and transfers (spec 44_load_store_transfer.md R210 to R221). -/

namespace Sys2Proof.Machine

/-- LDA (R210). -/
def execLda (o : Operand) (s : State) : Answer :=
  run .LDA o (readInto State.updateA) s

/-- LDX (R211). -/
def execLdx (o : Operand) (s : State) : Answer :=
  run .LDX o (readInto State.updateX) s

/-- LDY (R212). -/
def execLdy (o : Operand) (s : State) : Answer :=
  run .LDY o (readInto State.updateY) s

/-- A store calls `Store` once and never `Load` (R120). -/
def storeReg (reg : State → Byte) (c : Ctx) (s : State) : Res Ctx := .ok c (store c (reg s) s)

/-- STA (R213). -/
def execSta (o : Operand) (s : State) : Answer :=
  run .STA o (storeReg State.a) s

/-- STX (R214). -/
def execStx (o : Operand) (s : State) : Answer :=
  run .STX o (storeReg State.x) s

/-- STY (R215). -/
def execSty (o : Operand) (s : State) : Answer :=
  run .STY o (storeReg State.y) s

/-- TAX (R216). -/
def execTax (s : State) : Answer :=
  run .TAX .implicit (update fun s => s.updateX s.a) s

/-- TAY (R217). -/
def execTay (s : State) : Answer :=
  run .TAY .implicit (update fun s => s.updateY s.a) s

/-- TXA (R218). -/
def execTxa (s : State) : Answer :=
  run .TXA .implicit (update fun s => s.updateA s.x) s

/-- TYA (R219). -/
def execTya (s : State) : Answer :=
  run .TYA .implicit (update fun s => s.updateA s.y) s

/-- TSX (R220). -/
def execTsx (s : State) : Answer :=
  run .TSX .implicit (update fun s => s.updateX s.sp) s

/-- TXS: the one transfer that leaves N and Z alone (R221). -/
def execTxs (s : State) : Answer :=
  run .TXS .implicit (update fun s => s.setSP s.x) s

end Sys2Proof.Machine
end

