-- ==== Sys2Proof/Machine/Logic.lean ====
section
/-! DEFINITION. Logic and bit test: AND, ORA, EOR, BIT (spec 42_logic_bit.md R160 to R163). -/

namespace Sys2Proof.Machine

/-- AND (R160). -/
def execAnd (o : Operand) (s : State) : Answer :=
  run .AND o (readInto fun m s => s.updateA (s.a &&& m)) s

/-- ORA (R161). -/
def execOra (o : Operand) (s : State) : Answer :=
  run .ORA o (readInto fun m s => s.updateA (s.a ||| m)) s

/-- EOR (R162). -/
def execEor (o : Operand) (s : State) : Answer :=
  run .EOR o (readInto fun m s => s.updateA (s.a ^^^ m)) s

/-- BIT, bit test: A is not written (R163). -/
def execBit (o : Operand) (s : State) : Answer :=
  run .BIT o (readInto fun m s => s.setP (bitFlags s.a m s.p)) s

end Sys2Proof.Machine
end

