-- ==== Sys2Proof/Machine/Shift.lean ====
section
/-! DEFINITION. Shifts, rotates, increments and decrements (spec 43_shift_incdec.md R180 to R189). -/

namespace Sys2Proof.Machine

/-- ASL, arithmetic shift left (R180). -/
def execAsl (o : Operand) (s : State) : Answer :=
  run .ASL o (modify (fun _ m => (shiftLeft m).result) fun s m => shiftFlags (shiftLeft m) s.p) s

/-- LSR, logical shift right (R181). -/
def execLsr (o : Operand) (s : State) : Answer :=
  run .LSR o (modify (fun _ m => (shiftRight m).result) fun s m => shiftFlags (shiftRight m) s.p) s

/-- ROL, rotate left through carry: the old C is read before the new one is written (R182, R325). -/
def execRol (o : Operand) (s : State) : Answer :=
  run .ROL o (modify (fun s m => (rotateLeft (flag .c s.p) m).result) fun s m => shiftFlags (rotateLeft (flag .c s.p) m) s.p) s

/-- ROR, rotate right through carry (R183). -/
def execRor (o : Operand) (s : State) : Answer :=
  run .ROR o (modify (fun s m => (rotateRight (flag .c s.p) m).result) fun s m => shiftFlags (rotateRight (flag .c s.p) m) s.p) s

/-- INC, increment memory (R184). -/
def execInc (o : Operand) (s : State) : Answer :=
  run .INC o (modify (fun _ m => m + 1) fun s m => setNZ (m + 1) s.p) s

/-- DEC, decrement memory (R185). -/
def execDec (o : Operand) (s : State) : Answer :=
  run .DEC o (modify (fun _ m => m - 1) fun s m => setNZ (m - 1) s.p) s

/-- INX (R186). -/
def execInx (s : State) : Answer :=
  run .INX .implicit (update fun s => s.updateX (s.x + 1)) s

/-- INY (R187). -/
def execIny (s : State) : Answer :=
  run .INY .implicit (update fun s => s.updateY (s.y + 1)) s

/-- DEX (R188). -/
def execDex (s : State) : Answer :=
  run .DEX .implicit (update fun s => s.updateX (s.x - 1)) s

/-- DEY (R189). -/
def execDey (s : State) : Answer :=
  run .DEY .implicit (update fun s => s.updateY (s.y - 1)) s

end Sys2Proof.Machine
end

