-- ==== Sys2Proof/Machine/Stack.lean ====
section
/-! DEFINITION. Stack instructions: PHA, PHP, PLA, PLP (spec 45_stack.md R240 to R243). -/

namespace Sys2Proof.Machine

/-- PHA (R240). -/
def execPha (s : State) : Answer :=
  run .PHA .implicit (update fun s => push s.a s) s

/-- PHP: P is pushed with `PUSH_B54_MASK` or-ed in, and is unchanged (R241). -/
def execPhp (s : State) : Answer :=
  run .PHP .implicit (update fun s => push (s.p ||| s.cfg.pushMask) s) s

/-- PLA (R242). -/
def execPla (s : State) : Answer :=
  run .PLA .implicit (fun c s => (pull s).bind fun v s => .ok c (s.updateA v)) s

/-- PLP: all 8 bits of P are written (R243). -/
def execPlp (s : State) : Answer :=
  run .PLP .implicit (fun c s => (pull s).bind fun v s => .ok c (s.setP v)) s

end Sys2Proof.Machine
end

