-- ==== Sys2Proof/Machine/System.lean ====
section
/-! DEFINITION. Flag instructions, no-operations, the default entry, BRK and RTI (spec 47_flags_system.md R270 to R284). -/

namespace Sys2Proof.Machine

/-- CLC (R270): P.C alone is written. -/
def execClc (s : State) : Answer :=
  run .CLC .implicit (update fun s => s.setP (setFlag .c false s.p)) s

/-- SEC (R271): P.C alone is written. -/
def execSec (s : State) : Answer :=
  run .SEC .implicit (update fun s => s.setP (setFlag .c true s.p)) s

/-- CLI (R272): P.I alone is written. -/
def execCli (s : State) : Answer :=
  run .CLI .implicit (update fun s => s.setP (setFlag .i false s.p)) s

/-- SEI (R273): P.I alone is written. -/
def execSei (s : State) : Answer :=
  run .SEI .implicit (update fun s => s.setP (setFlag .i true s.p)) s

/-- CLD (R274): P.D alone is written. -/
def execCld (s : State) : Answer :=
  run .CLD .implicit (update fun s => s.setP (setFlag .d false s.p)) s

/-- SED (R275): P.D alone is written. -/
def execSed (s : State) : Answer :=
  run .SED .implicit (update fun s => s.setP (setFlag .d true s.p)) s

/-- CLV (R276): P.V alone is written. -/
def execClv (s : State) : Answer :=
  run .CLV .implicit (update fun s => s.setP (setFlag .v false s.p)) s

/-- NOP, the documented no-operation (R277). -/
def execNop (s : State) : Answer :=
  run .NOP .implicit (update id) s

/-- The default entry (R278): the NOP routine, at an opcode the table does not name. The opcode plays no part. -/
def execDflt (_op : Byte) (s : State) : Answer :=
  run .NOP .implicit (update id) s

/-- BRK's routine (R283): the fault of the minimal core, or the software trap of `INTERRUPT_STUBS = nmos`. -/
def breakTrap (c : Ctx) (s : State) : Res Ctx :=
  match s.cfg.stubs with
  | .fault => .fail .unsupportedBrk c.opAddr s
  | .nmos => (trapEntry s).bind fun _ s => .ok c s

/-- BRK, break (R283, R306). -/
def execBrk (s : State) : Answer :=
  run .BRK .implicit (breakTrap) s

/-- RTI's routine (R284): the fault of the minimal core, or the trap return of `INTERRUPT_STUBS = nmos`. -/
def breakReturn (c : Ctx) (s : State) : Res Ctx :=
  match s.cfg.stubs with
  | .fault => .fail .unsupportedRti c.opAddr s
  | .nmos => (trapReturn s).bind fun _ s => .ok c s

/-- RTI, return from interrupt (R284, R307). -/
def execRti (s : State) : Answer :=
  run .RTI .implicit (breakReturn) s

end Sys2Proof.Machine
end

