-- ==== Sys2Proof/Machine/Fetch.lean ====
section
/-! DEFINITION. Fetching and decoding one instruction (spec 40_dispatch_addressing.md R100, 20_memory.md R57), what the
step adds around `exec`, and placing an instruction where the step fetches. -/

namespace Sys2Proof.Machine

/-- `n` bytes read at increasing addresses, which wrap modulo 65536 (R31, R57). -/
def readBytes : Nat → Word → State → Res (List Byte)
  | 0, _, s => .ok [] s
  | n + 1, a, s =>
    (readByte a s).bind fun b s =>
    (readBytes n (a + 1) s).bind fun bs s => .ok (b :: bs) s

/-- The fetch of R100: the opcode at PC, its entry, then the operand bytes its mode calls for. `none` is an opcode without
an entry or an instruction, which an admitted table does not have (R74). PC is left at the opcode: `exec` moves it (R31). -/
def fetch (s : State) : Res (Option (Entry × Instr)) :=
  (readByte s.pc s).bind fun op s =>
    match s.cfg.table[op.toNat]? with
    | none => .ok none s
    | some e =>
      (readBytes (modeBytes e.mode) (s.pc + 1) s).bind fun bs s =>
        match decodeEntry e op bs with
        | .ok (i, _) => .ok (some (e, i)) s
        | .error _ => .ok none s

/-- A step begins with no transaction listed. -/
def State.clearBus (s : State) : State := { s with bus := [] }

/-- Step 5 of R100 for the entry's base count: a step that took a fault adds nothing (R124, R302). -/
def chargeBase (n : Nat) (s : State) : State := if s.halted then s else s.addCyc n

/-- What the step adds after `exec`. -/
def afterExec (base : Nat) : Answer → Answer
  | .next s => .next (chargeBase base s)
  | .fault f => .fault f
  | .refused r => .refused r

/-- What needs a table that passes the admission check of R80: with one that fails there is no run (R315), neither a reset
that completes nor a step that is accepted. -/
def withTable (s : State) (answer : Answer) : Answer :=
  if admitted s.cfg.table then answer else .refused .tableNotAdmitted

/-- One step from a state that is not halted (R100). -/
def runStep (s : State) : Answer :=
  match fetch s.clearBus with
  | .ok (some (e, i)) t => afterExec e.base (exec i t)
  | .ok none _ => .refused .tableNotAdmitted
  | .fail f a t => .next (takeFault s f a t)

/-- One `step_req`: accepted with an admitted table only (R315). While HALTED is 1 it does nothing (R126): the state is the
next state. -/
def stepReq (s : State) : Answer := withTable s (if s.halted then .next s else runStep s)

/-- The three addresses at which the longest instruction (R70) at an address lies. -/
def instrAddrs (pc : Word) : List Word := [pc, pc + 1, pc + 2]

/-- Contents with bytes laid at increasing addresses from one on, each stored as the machine stores a byte. -/
def layBytes : List Host.Cell → Word → List Byte → List Host.Cell
  | m, _, [] => m
  | m, a, b :: bs => layBytes (Memory.set m a.toNat b) (a + 1) bs

/-- A map in which the addresses of an instruction are plain: unchanged where they are already. -/
def plainAt (map : List Region) (as : List Word) : List Region :=
  if as.all fun a => kindAt map a == .plain then map
  else (as.map fun a => Region.mk a.toNat 1 .plain) ++ map

/-- The bytes of one instruction placed where the next step fetches, in the default table's encoding. The step runs only
when not halted (R126), so a halt is cleared as reset clears it. -/
def placeInstr (bs : List Byte) (s : State) : State :=
  { s with
    mem := layBytes s.mem s.pc bs
    cfg := { s.cfg with table := stdTable, map := plainAt s.cfg.map (instrAddrs s.pc) }
    halted := false
    fault := if s.halted then none else s.fault
    faultAddr := if s.halted then 0x0000 else s.faultAddr }

end Sys2Proof.Machine
end

