-- ==== Sys2Proof/Machine/Step.lean ====
section
/-! DEFINITION. The step (spec 40_dispatch_addressing.md R100, R126; 60_exceptions.md R315). -/

namespace Sys2Proof.Machine

/-- One `step_req` of the host. -/
def step (s : State) : Host.Outcome State Fault Refusal := stepReq s

/-- The host's question: `s` with an instruction of the default table stored at its PC, and nothing else changed that
the fetch does not need. -/
def State.withFetchWord (s : State) (nbits w : Nat) : State := placeInstr (tableWordBytes nbits w) s

end Sys2Proof.Machine
end

