-- ==== Sys2Proof/Machine/Asm.lean ====
section
/-! DEFINITION. The disassembler's walk (spec 30_encoding.md R85) and the assembler syntax of R84. Text is a list of
characters; the layout of a disassembly listing is out of scope (00_scope.md R5, 90_conflicts.md C3). -/

namespace Sys2Proof.Machine

/-- R85's walk: the offset of each instruction and the instruction, each an instruction length (R72) after the one
before. `fuel` bounds the number of instructions. -/
def disassembleFrom (t : List Entry) : Nat → Nat → List Byte → Except DecodeError (List (Nat × Instr))
  | _, _, [] => .ok []
  | 0, _, _ :: _ => .error .truncated
  | fuel + 1, off, b :: bs =>
    match decodeWith t (b :: bs) with
    | .error e => .error e
    | .ok (i, rest) =>
      match disassembleFrom t fuel (off + i.length) rest with
      | .error e => .error e
      | .ok l => .ok ((off, i) :: l)

/-- R85 for a whole buffer: a buffer of n bytes holds at most n instructions. -/
def disassemble (t : List Entry) (bs : List Byte) : Except DecodeError (List (Nat × Instr)) :=
  disassembleFrom t bs.length 0 bs

/-- The offset byte the assembler encodes for a branch (R84): `wrap8(target - (opc_addr + 2))`, where the distance lies
in -128..127. -/
def branchOffset (opcAddr target : Word) : Option Byte :=
  let d := target - (opcAddr + 2)
  if sext16 (lo8 d) = d then some (lo8 d) else none

/-- The upper-case mnemonic (R84). -/
def mnemonicText : Mnemonic → List Char
  | .ADC => ['A', 'D', 'C']
  | .AND => ['A', 'N', 'D']
  | .ASL => ['A', 'S', 'L']
  | .BCC => ['B', 'C', 'C']
  | .BCS => ['B', 'C', 'S']
  | .BEQ => ['B', 'E', 'Q']
  | .BIT => ['B', 'I', 'T']
  | .BMI => ['B', 'M', 'I']
  | .BNE => ['B', 'N', 'E']
  | .BPL => ['B', 'P', 'L']
  | .BRK => ['B', 'R', 'K']
  | .BVC => ['B', 'V', 'C']
  | .BVS => ['B', 'V', 'S']
  | .CLC => ['C', 'L', 'C']
  | .CLD => ['C', 'L', 'D']
  | .CLI => ['C', 'L', 'I']
  | .CLV => ['C', 'L', 'V']
  | .CMP => ['C', 'M', 'P']
  | .CPX => ['C', 'P', 'X']
  | .CPY => ['C', 'P', 'Y']
  | .DEC => ['D', 'E', 'C']
  | .DEX => ['D', 'E', 'X']
  | .DEY => ['D', 'E', 'Y']
  | .EOR => ['E', 'O', 'R']
  | .INC => ['I', 'N', 'C']
  | .INX => ['I', 'N', 'X']
  | .INY => ['I', 'N', 'Y']
  | .JMP => ['J', 'M', 'P']
  | .JSR => ['J', 'S', 'R']
  | .LDA => ['L', 'D', 'A']
  | .LDX => ['L', 'D', 'X']
  | .LDY => ['L', 'D', 'Y']
  | .LSR => ['L', 'S', 'R']
  | .NOP => ['N', 'O', 'P']
  | .ORA => ['O', 'R', 'A']
  | .PHA => ['P', 'H', 'A']
  | .PHP => ['P', 'H', 'P']
  | .PLA => ['P', 'L', 'A']
  | .PLP => ['P', 'L', 'P']
  | .ROL => ['R', 'O', 'L']
  | .ROR => ['R', 'O', 'R']
  | .RTI => ['R', 'T', 'I']
  | .RTS => ['R', 'T', 'S']
  | .SBC => ['S', 'B', 'C']
  | .SEC => ['S', 'E', 'C']
  | .SED => ['S', 'E', 'D']
  | .SEI => ['S', 'E', 'I']
  | .STA => ['S', 'T', 'A']
  | .STX => ['S', 'T', 'X']
  | .STY => ['S', 'T', 'Y']
  | .TAX => ['T', 'A', 'X']
  | .TAY => ['T', 'A', 'Y']
  | .TSX => ['T', 'S', 'X']
  | .TXA => ['T', 'X', 'A']
  | .TXS => ['T', 'X', 'S']
  | .TYA => ['T', 'Y', 'A']

/-- A hexadecimal digit. -/
def hexDigit (n : Nat) : Char :=
  (['0', '1', '2', '3', '4', '5', '6', '7', '8', '9', 'A', 'B', 'C', 'D', 'E', 'F'] : List Char).getD n '0'

/-- Two hexadecimal digits after a `$`. -/
def hexByte (b : Byte) : List Char := ['$', hexDigit (b.toNat / 16), hexDigit (b.toNat % 16)]

/-- Four hexadecimal digits after a `$`. -/
def hexWord (w : Word) : List Char := hexByte (hi8 w) ++ (hexByte (lo8 w)).drop 1

/-- The operand syntax of R84. A branch is written with its target. -/
def operandText (opcAddr : Word) : Operand → List Char
  | .implicit => []
  | .accumulator => ['A']
  | .immediate b => '#' :: hexByte b
  | .zeroPage b => hexByte b
  | .zeroPageX b => hexByte b ++ [',', ' ', 'X']
  | .zeroPageY b => hexByte b ++ [',', ' ', 'Y']
  | .absolute w => hexWord w
  | .absoluteX w => hexWord w ++ [',', ' ', 'X']
  | .absoluteY w => hexWord w ++ [',', ' ', 'Y']
  | .indirectX b => '(' :: hexByte b ++ [',', ' ', 'X', ')']
  | .indirectY b => '(' :: hexByte b ++ [')', ',', ' ', 'Y']
  | .indirect w => '(' :: hexWord w ++ [')']
  | .relative off => hexWord (opcAddr + 2 + sext16 off)

/-- One line of assembly (R84): the mnemonic, then a space and the operand where there is one. -/
def asmLine (opcAddr : Word) (i : Instr) : List Char :=
  match operandText opcAddr i.operand with
  | [] => mnemonicText i.mnemonic
  | text => mnemonicText i.mnemonic ++ ' ' :: text

end Sys2Proof.Machine
end

