-- ==== Sys2Proof/Machine/HostPort.lean ====
section
/-! DEFINITION. What the host may do and what it is answered (spec 10_state.md R42, 70_reset_and_hazards.md R320, R328):
`cfg_table`, `reset`, the answer `step_ack`, and the `state` port. -/

namespace Sys2Proof.Machine

/-- `cfg_table` (R42, R328), before reset: the configuration with the table, or a refusal by R80. -/
def cfgTable (t : List Entry) (c : Config) : Option Config := if admitted t then some { c with table := t } else none

/-- `reset(INIT)` (R320): the table is checked, then all state is loaded at once. With a table that fails, reset does
not complete (R315). -/
def hostReset (i : Init) (s : State) : Answer := withTable s (.next (s.resetWith i))

/-- `step_ack` (R42, R100). -/
inductive Ack where
  | ok (cycles : Nat)
  | fault (code : Nat)
  | halted
  deriving DecidableEq, Repr

/-- The answer to a `step_req`: `HALTED` when no step was run (R126), `FAULT(code)` when the step took a fault (R303),
else `OK(n)` with the step's cycle count (R124). A `step_req` that is not accepted (R315) has no answer. -/
def stepAck (s : State) : Option Ack :=
  match step s with
  | .next t => some (if s.halted then .halted else if t.halted then .fault (faultCode t.fault) else .ok (t.cyc - s.cyc))
  | .fault _ => none
  | .refused _ => none

/-- What the `state` port shows the host between steps (R42): all of VCORE's state (R43) and nothing else. -/
structure StatePort where
  a : Byte
  x : Byte
  y : Byte
  sp : Byte
  p : Byte
  pc : Word
  cyc : Nat
  halted : Bool
  fault : Nat
  faultAddr : Word
  deriving DecidableEq, Repr

/-- The `state` port (R42). -/
def statePort (s : State) : StatePort where
  a := s.a
  x := s.x
  y := s.y
  sp := s.sp
  p := s.p
  pc := s.pc
  cyc := s.cyc
  halted := s.halted
  fault := faultCode s.fault
  faultAddr := s.faultAddr

end Sys2Proof.Machine
end

