-- ==== Sys2Proof/Safety.lean ====
section
/-! DEFINITION. The terms the claims use: reading a byte without a step, the effective address of each mode as the
formulas of spec 40_dispatch_addressing.md give it, what an instruction's reads give where they are answered, the state
its own effect starts from, and the invariant of the machine. -/

namespace Sys2Proof.Machine

/-! ### Memory: the contents, and answered reads -/

/-- The byte that lies at an address (R58): the contents, or 0 in the gap (R52). At a device it is the contents under it,
which no access of the machine reaches. -/
def peek (s : State) (a : Word) : Byte :=
  match kindAt s.cfg.map a with
  | .gap => 0x00
  | .plain | .readOnly | .unserved | .device => Memory.get s.mem a.toNat

/-- A read that is answered with a byte (R50), by plain storage or by a device: the byte, and the state after, in which
the transaction is made and nothing else differs. `none` where the answer is ERR. -/
def sees (s : State) (a : Word) : Option (Byte × State) := (portAnswer s a).map fun v => (v, s.logRead a)

/-- Two reads one after the other: the low byte first, then the high byte (R53, R57). -/
def seesPair (s : State) (lo hi : Word) : Option (Word × State) :=
  match sees s lo with
  | none => none
  | some (l, t) =>
    match sees t hi with
    | none => none
    | some (h, u) => some (hiLo h l, u)

/-- Reads in order, each answered. -/
def seesAll : List Word → State → Option (List Byte × State)
  | [], s => some ([], s)
  | a :: as, s =>
    match sees s a with
    | none => none
    | some (b, t) =>
      match seesAll as t with
      | none => none
      | some (bs, u) => some (b :: bs, u)

/-! ### The modes, from the formulas of R101 to R114 -/

/-- The pointer reads of a resolver, low byte first (R57, R110 to R112). -/
def ptrAddrs (s : State) : Operand → List Word
  | .indirectX b => [zext16 (b + s.x), ptrNext s.cfg.zpWrap (b + s.x)]
  | .indirectY p => [zext16 p, ptrNext s.cfg.zpWrap p]
  | .indirect ptr => [ptr, indirectNext ptr]
  | .implicit | .accumulator | .immediate _ | .zeroPage _ | .zeroPageX _ | .zeroPageY _ | .absolute _ | .absoluteX _
  | .absoluteY _ | .relative _ => []

/-- The pointer a resolver reads and the state after it, where its reads are answered. A mode that reads no pointer makes
no read, and 0 stands for its pointer. -/
def pointer (s : State) (o : Operand) : Option (Word × State) :=
  match ptrAddrs s o with
  | [lo, hi] => seesPair s lo hi
  | _ => some (0, s)

/-- The effective address, from the pointer read. A mode that sets none has the 0 of R40. -/
def effAddr (s : State) (o : Operand) (ptr : Word) : Word :=
  match o with
  | .zeroPage b => zext16 b
  | .zeroPageX b => zext16 (b + s.x)
  | .zeroPageY b => zext16 (b + s.y)
  | .absolute w => w
  | .absoluteX w => w + zext16 s.x
  | .absoluteY w => w + zext16 s.y
  | .indirectX _ => ptr
  | .indirectY _ => ptr + zext16 s.y
  | .indirect _ => ptr
  | .implicit | .accumulator | .immediate _ | .relative _ => 0

/-- Whether the address computation left its page: the pages of the base and of the sum differ (R108, R109), or the sum of
the low bytes carried (R111). -/
def crosses (s : State) (o : Operand) (ptr : Word) : Bool :=
  match o with
  | .absoluteX w => pagesDiffer (w + zext16 s.x) w
  | .absoluteY w => pagesDiffer (w + zext16 s.y) w
  | .indirectY _ => decide (0xFF < (lo8 ptr).toNat + s.y.toNat)
  | .implicit | .accumulator | .immediate _ | .zeroPage _ | .zeroPageX _ | .zeroPageY _ | .absolute _ | .indirectX _
  | .indirect _ | .relative _ => false

/-- The operand is a byte of memory at the effective address (R120). -/
def inMemory : Operand → Bool
  | .zeroPage _ | .zeroPageX _ | .zeroPageY _ | .absolute _ | .absoluteX _ | .absoluteY _ | .indirectX _
  | .indirectY _ => true
  | .implicit | .accumulator | .immediate _ | .indirect _ | .relative _ => false

/-- What `Load()` gives and the state after it (R120), where its read is answered: `s` is the state at the start of the
instruction, and `ptr` and `t` are the pointer and the state that the resolver's reads gave. -/
def operandSeen (s : State) (o : Operand) (ptr : Word) (t : State) : Option (Byte × State) :=
  match o with
  | .immediate b => some (b, t)
  | .accumulator => some (s.a, t)
  | .implicit | .indirect _ | .relative _ => none
  | .zeroPage _ | .zeroPageX _ | .zeroPageY _ | .absolute _ | .absoluteX _ | .absoluteY _ | .indirectX _
  | .indirectY _ => sees t (effAddr s o ptr)

/-- The address of the next sequential instruction (R31). -/
def nextPC (s : State) (o : Operand) : Word := s.pc + BitVec.ofNat 16 (1 + modeBytes o.mode)

/-- The page-crossing penalty (R123). -/
def pageCost (s : State) (m : Mnemonic) (o : Operand) (ptr : Word) : Nat :=
  if m ∈ s.cfg.penaltyClass ∧ crosses s o ptr = true then 1 else 0

/-- What an instruction that starts in `s` and whose reads led to `t` has done before its own effect: PC is past it and the
page penalty is counted. -/
def advanced (s : State) (m : Mnemonic) (o : Operand) (ptr : Word) (t : State) : State :=
  (t.setPC (nextPC s o)).addCyc (pageCost s m o ptr)

/-- Where a branch leaves the machine (R122, R254): taken, PC moves by the offset and 1 cycle is added, 2 across a
page; else only PC moves on. -/
def branched (s : State) (off : Byte) (taken : Bool) : State :=
  let next := s.pc + 2
  let target := next + sext16 off
  if taken then { s with pc := target, cyc := s.cyc + (if pagesDiffer target next then 2 else 1) }
  else { s with pc := next }

/-- A fault taken (R302, R303) by what started in `s`, after the reads that led to `t`: the run state is set, the reads
stay made, and nothing else differs from `s`. -/
def haltedBy (s : State) (f : Fault) (a : Word) (t : State) : State :=
  { s with halted := true, fault := some f, faultAddr := a, bus := t.bus, devLog := t.devLog }

/-! ### Who writes what (R21 to R28) -/

/-- The writers of each flag (R28). RTI writes all of P and BRK writes P.I under `INTERRUPT_STUBS = nmos`. -/
def flagWriters : Flag → List Mnemonic
  | .c => [.ADC, .SBC, .CMP, .CPX, .CPY, .ASL, .LSR, .ROL, .ROR, .CLC, .SEC, .PLP, .RTI]
  | .z | .n => [.ADC, .SBC, .CMP, .CPX, .CPY, .AND, .ORA, .EOR, .BIT, .ASL, .LSR, .ROL, .ROR, .INC, .DEC, .INX, .INY,
      .DEX, .DEY, .LDA, .LDX, .LDY, .TAX, .TAY, .TXA, .TYA, .TSX, .PLA, .PLP, .RTI]
  | .i => [.CLI, .SEI, .PLP, .RTI, .BRK]
  | .d => [.CLD, .SED, .PLP, .RTI]
  | .v => [.ADC, .SBC, .BIT, .CLV, .PLP, .RTI]

/-- The writers of A (R21): the shifts and rotates only in Accumulator mode. -/
def writesA (i : Instr) : Bool :=
  i.mnemonic ∈ [.ADC, .SBC, .AND, .ORA, .EOR, .LDA, .TXA, .TYA, .PLA] ||
    (i.mnemonic ∈ [.ASL, .LSR, .ROL, .ROR] && i.operand.mode == .accumulator)

/-- The writers of X (R22). -/
def writesX (i : Instr) : Bool := i.mnemonic ∈ [.LDX, .TAX, .TSX, .INX, .DEX]

/-- The writers of Y (R23). -/
def writesY (i : Instr) : Bool := i.mnemonic ∈ [.LDY, .TAY, .INY, .DEY]

/-- The writers of SP (R24): TXS, and the instructions that push or pull. -/
def writesSP (i : Instr) : Bool := i.mnemonic ∈ [.TXS, .PHA, .PHP, .PLA, .PLP, .JSR, .RTS, .BRK, .RTI]

/-- The instructions that load their operand (R120): a read, or a read-modify-write. -/
def loadsOperand (i : Instr) : Bool :=
  i.mnemonic ∈ [.ADC, .SBC, .CMP, .CPX, .CPY, .AND, .ORA, .EOR, .BIT, .LDA, .LDX, .LDY, .ASL, .LSR, .ROL, .ROR, .INC, .DEC]

/-- The address an operand's result is stored to, where the resolver reaches one (R120, R121). -/
def resultAddr (o : Operand) (s : State) : List Word :=
  match resolve o s with
  | .ok c _ => if inMemory o then [c.ea] else []
  | .fail _ _ _ => []

/-- Every address an instruction stores to (R213 to R215, R180 to R185, R240, R241, R252, R283), from the functions its
meaning uses. -/
def storedAddrs (i : Instr) (s : State) : List Word :=
  if i.mnemonic ∈ [.STA, .STX, .STY, .ASL, .LSR, .ROL, .ROR, .INC, .DEC] then resultAddr i.operand s
  else if i.mnemonic ∈ [.PHA, .PHP] then [stackAddr s.sp]
  else if i.mnemonic = .JSR then [stackAddr s.sp, stackAddr (s.sp - 1)]
  else if i.mnemonic = .BRK ∧ s.cfg.stubs = .nmos then [stackAddr s.sp, stackAddr (s.sp - 1), stackAddr (s.sp - 2)]
  else []

/-! ### Runs -/

/-- The invariant of the machine: memory is in its canonical form, the configuration is one VCORE leaves reset with, and
the run state is consistent (R33, R303): HALTED is set exactly when FAULT holds a fault, and FAULT_ADDR is 0 until then. -/
def Inv (s : State) : Prop :=
  Memory.wf s.mem = true ∧ s.cfg.wf = true ∧ s.halted = s.fault.isSome ∧ (s.fault = none → s.faultAddr = 0)

/-- The first `n` addresses from one on, wrapping (R31). -/
def addrsFrom (a : Word) (n : Nat) : List Word := (List.range n).map fun k => a + BitVec.ofNat 16 k

/-- Instructions one after another from an offset on, each with its own offset (R85). -/
def layout : Nat → List Instr → List (Nat × Instr)
  | _, [] => []
  | off, i :: is => (off, i) :: layout (off + i.length) is

end Sys2Proof.Machine
end

