-- ==== Sys2Proof/Certificates/Slice0/Obligations.lean ====
section
/-! DEFINITION. The statements for the provers, from the numbered rules of spec/. `exec i s` is an instruction's own
effect with its penalty and branch cycles; the step adds the fetch before it and the entry's base count after it
(`StepRunsDecodedInstr`). Each result statement gives the whole next state, so it is the instruction's frame as well. -/

open Sys2Proof Sys2Proof.Machine

/-! ### Reset and the dispatch table -/

/-- R320, R321: reset checks the table, then loads every register from `INIT`, clears CYC and the run state, and makes no
memory access. With a table that fails it does not complete. -/
def Obligations.ResetLoadsInit : Prop :=
  ∀ (i : Init) (s : State),
    (admitted s.cfg.table = true → ∃ t, hostReset i s = .next t ∧
      t.a = i.a ∧ t.x = i.x ∧ t.y = i.y ∧ t.sp = i.sp ∧ t.p = i.p ∧ t.pc = i.pc ∧
      t.cyc = 0 ∧ t.halted = false ∧ t.fault = none ∧ t.faultAddr = 0x0000 ∧
      t.mem = s.mem ∧ t.cfg = s.cfg ∧ t.devLog = s.devLog ∧ t.bus = []) ∧
    (admitted s.cfg.table = false → hostReset i s = .refused .tableNotAdmitted)

/-- Every reset leaves the invariant of the machine (`StepKeepsInvariant` is the other half), whatever `INIT`, the contents
and the map are (R321): it asks only that the contents are in their canonical form and that the configuration is one VCORE
leaves reset with. So does the model's own `State.reset`, by no value of its `INIT`. -/
def Obligations.ResetMeetsInvariant : Prop :=
  (∀ (i : Init) (s t : State), Memory.wf s.mem = true → s.cfg.wf = true → hostReset i s = .next t → Inv t) ∧
    Inv State.reset

/-- R77: STD_TABLE passes the admission check of R80, has 256 entries of which 105 are `DEFAULT`, and is what the 151
records of R79's table build by R76. -/
def Obligations.StdTableIsAdmitted : Prop :=
  admitted stdTable = true ∧ stdTable.length = 256 ∧ (stdTable.filter (· = defaultEntry)).length = 105 ∧
    stdRecords.length = 151 ∧ buildTable stdRecords = stdTable

/-- R76: every entry starts as `DEFAULT`, the last valid record for an opcode wins, a record that is not valid is skipped
in permissive mode, and in strict mode it leaves no table. -/
def Obligations.LastRecordWins : Prop :=
  (∀ (rs : List Record) (op : Byte), (buildTable rs).length = 256 ∧
    (buildTable rs)[op.toNat]? =
      some (match rs.reverse.find? (fun r => r.opcode == op) with
        | some r => r.entry
        | none => defaultEntry)) ∧
  (∀ (d : List (Option Record)), buildPermissive d = buildTable (d.filterMap id)) ∧
  (∀ (d : List (Option Record)), (none ∈ d → buildStrict d = none) ∧
    (none ∉ d → buildStrict d = some (buildPermissive d)))

/-- R74, with R34 and R72: with an admitted table no opcode is undecodable. Any opcode with two bytes after it decodes, to
an instruction of its entry's mnemonic and mode, which takes `1 + ModeBytes` bytes. -/
def Obligations.NoOpcodeIsUndecodable : Prop :=
  ∀ (t : List Entry), admitted t = true → ∀ (op b c : Byte) (rest : List Byte), ∃ (e : Entry) (i : Instr),
    t[op.toNat]? = some e ∧ i.mnemonic = e.mnemonic ∧ i.operand.mode = e.mode ∧ i.pairLegal = true ∧
      i.length = 1 + modeBytes e.mode ∧
      decodeWith t (op :: b :: c :: rest) = .ok (i, (op :: b :: c :: rest).drop i.length)

/-- Decoding an encoded well-formed instruction gives it back, every operand bit of it, whatever bytes follow (R70 to
R74, R79). -/
def Obligations.DecodeOfEncode : Prop :=
  ∀ (i : Instr) (rest : List Byte), i.wf = true → decode (encode i ++ rest) = .ok (i, rest)

/-- Each byte sequence has one meaning: what decodes is the encoding of the instruction it decodes to (R70 to R74). -/
def Obligations.EncodeOfDecode : Prop :=
  ∀ (bs rest : List Byte) (i : Instr), decode bs = .ok (i, rest) → i.wf = true ∧ encode i ++ rest = bs

/-- Words written out from R79 and R71, one for each format: F0, F0 in Accumulator mode, F1i, F1z, F1p, F1r, F2a, F2p,
and a default opcode (R78). -/
def Obligations.DecodesSpecWords : Prop :=
  decode [0x18] = .ok (.clc, []) ∧
  decode [0x6A] = .ok (.ror .accumulator, []) ∧
  decode [0x69, 0xB0] = .ok (.adc (.immediate 0xB0), []) ∧
  decode [0x96, 0xFF] = .ok (.stx (.zeroPageY 0xFF), []) ∧
  decode [0x91, 0x86] = .ok (.sta (.indirectY 0x86), []) ∧
  decode [0xD0, 0xFB] = .ok (.bne 0xFB, []) ∧
  decode [0x20, 0x34, 0x12] = .ok (.jsr 0x1234, []) ∧
  decode [0xBD, 0xFF, 0x20] = .ok (.lda (.absoluteX 0x20FF), []) ∧
  decode [0x6C, 0xFF, 0x02] = .ok (.jmp (.indirect 0x02FF), []) ∧
  decode [0x02] = .ok (.dflt 0x02, [])

/-- R85: the disassembler writes one record per instruction, at the offsets their lengths (R72) give, and fails with the
truncated-instruction error where the operand bytes of the last one would pass the end of the buffer. -/
def Obligations.DisassemblesInstructions : Prop :=
  (∀ (is : List Instr), (∀ i ∈ is, i.wf = true) →
    disassemble stdTable (is.flatMap encode) = .ok (layout 0 is)) ∧
  (∀ (is : List Instr) (i : Instr) (n : Nat), (∀ j ∈ is, j.wf = true) → i.wf = true → 0 < n → n < i.length →
    disassemble stdTable (is.flatMap encode ++ (encode i).take n) = .error .truncated)

/-- R84: the offset byte an assembler encodes for a branch target is the one the branch adds back, and there is one
exactly where the distance from the address after the branch lies in -128..127. -/
def Obligations.AssemblerOffsetInvertsBranch : Prop :=
  (∀ (pc : Word) (off : Byte), branchOffset pc (pc + 2 + sext16 off) = some off) ∧
  (∀ (pc target : Word), (branchOffset pc target).isSome = true ↔
    -128 ≤ (target - (pc + 2)).toInt ∧ (target - (pc + 2)).toInt ≤ 127)

/-! ### The step -/

/-- R100: a step of a machine that is not halted runs the instruction that the bytes read at PC decode to. It makes the
fetches, runs `exec`, and adds the entry's base count unless a fault was taken. -/
def Obligations.StepRunsDecodedInstr : Prop :=
  ∀ (s t : State) (e : Entry) (i : Instr) (op : Byte) (bs rest : List Byte), s.halted = false →
    admitted s.cfg.table = true →
    seesAll (addrsFrom s.pc (1 + modeBytes e.mode)) s.clearBus = some (op :: bs, t) →
    s.cfg.table[op.toNat]? = some e → decodeWith s.cfg.table (op :: bs) = .ok (i, rest) →
    step s = match exec i t with
      | .next u => .next (if u.halted then u else { u with cyc := u.cyc + e.base })
      | .fault f => .fault f
      | .refused r => .refused r

/-- R126, R42: while HALTED is 1 a step that is accepted (R315) does nothing and the answer is `HALTED`. -/
def Obligations.HaltedStepDoesNothing : Prop :=
  ∀ (s : State), admitted s.cfg.table = true → s.halted = true → step s = .next s ∧ stepAck s = some .halted

/-- R42, R100: a step that is run answers `FAULT(code)` when it ends halted, else `OK(n)` with the cycles it added. -/
def Obligations.AckReportsTheStep : Prop :=
  ∀ (s t : State), s.halted = false → step s = .next t →
    (t.halted = false → s.cyc ≤ t.cyc ∧ stepAck s = some (.ok (t.cyc - s.cyc))) ∧
    (t.halted = true → ∃ f, t.fault = some f ∧ stepAck s = some (.fault (faultCode (some f))))

/-- R35, R74, R301: with an admitted table every step answers a next state: nothing is refused, no outcome but the
machine's own fault state stops it, and the table and the other parameters do not change. R315: a table that fails the
check of R80 is refused before reset and at reset, whatever `INIT` is, and with it no `step_req` is accepted, so that there
is no next state, no fault and no answer. That this holds of a halted state too, which no run has with such a table, where
R126 by itself would answer `HALTED`, is the model's choice: it takes R315 before R126 (DEDUCED,
notes/assumptions/7.md). -/
def Obligations.EveryStepAnswersNext : Prop :=
  ∀ (s : State),
    (admitted s.cfg.table = true → ∃ t, step s = .next t ∧ t.cfg = s.cfg) ∧
    (admitted s.cfg.table = false →
      (∀ (c : Config), cfgTable s.cfg.table c = none) ∧ (∀ (i : Init), hostReset i s = .refused .tableNotAdmitted) ∧
      step s = .refused .tableNotAdmitted ∧ stepAck s = none)

/-- R300, R302, R303: a step that halts has no effect on A, X, Y, SP, P, PC, CYC and memory; it records a fault, and
FAULT_ADDR is the opcode's address, or for `MEM_READ` the address of the read that failed, which is the last one made. -/
def Obligations.FaultsArePrecise : Prop :=
  ∀ (s t : State), s.halted = false → step s = .next t → t.halted = true →
    t.a = s.a ∧ t.x = s.x ∧ t.y = s.y ∧ t.sp = s.sp ∧ t.p = s.p ∧ t.pc = s.pc ∧ t.cyc = s.cyc ∧ t.mem = s.mem ∧
    ∃ f, t.fault = some f ∧ (f ≠ .memRead → t.faultAddr = s.pc) ∧
      (f = .memRead → ∃ bus, t.bus = bus ++ [.rd t.faultAddr none])

/-- R300: the four faults, their codes, their causes, and the address each records. A step that halts has met one of
them: `MEM_READ` where a read was answered with ERR, or one of the three `UNSUPPORTED` faults of the entry fetched. -/
def Obligations.EachFaultHasItsCause : Prop :=
  ∀ (s t : State), s.halted = false → step s = .next t → t.halted = true →
    (t.fault = some .memRead ∧ faultCode t.fault = 4 ∧ ∃ bus, t.bus = bus ++ [.rd t.faultAddr none]) ∨
    (t.faultAddr = s.pc ∧ ∃ op e, portAnswer s s.pc = some op ∧ s.cfg.table[op.toNat]? = some e ∧
      ((t.fault = some .unsupportedBrk ∧ faultCode t.fault = 1 ∧ e.mnemonic = .BRK ∧ s.cfg.stubs = .fault) ∨
        (t.fault = some .unsupportedRti ∧ faultCode t.fault = 2 ∧ e.mnemonic = .RTI ∧ s.cfg.stubs = .fault) ∨
        (t.fault = some .unsupportedDecimal ∧ faultCode t.fault = 3 ∧ e.mnemonic ∈ [.ADC, .SBC] ∧
          flag .d s.p = true ∧ s.cfg.decimal = .fault)))

/-- Every step keeps the invariant of the machine, from every state that meets it: memory stays in its canonical form,
the configuration stays admitted, HALTED is set exactly with a fault recorded, and FAULT_ADDR is 0 until then
(R33, R303). -/
def Obligations.StepKeepsInvariant : Prop := ∀ (s t : State), Inv s → step s = .next t → Inv t

/-- R57: the transactions of a step are its reads and then its writes, and a step that faults makes no write. -/
def Obligations.ReadsComeBeforeWrites : Prop :=
  ∀ (s t : State), s.halted = false → step s = .next t → ∃ rs ws, t.bus = rs ++ ws ∧
    (∀ x ∈ rs, x.isRead = true) ∧ (∀ x ∈ ws, x.isRead = false) ∧ (t.halted = true → ws = [])

/-- R124: a completed step adds the base count of the entry it fetched and at most two cycles more. -/
def Obligations.StepAddsBaseCycles : Prop :=
  ∀ (s t : State), s.halted = false → step s = .next t → t.halted = false → ∃ op e k,
    portAnswer s s.pc = some op ∧ s.cfg.table[op.toNat]? = some e ∧ 1 ≤ e.base ∧ k ≤ 2 ∧ t.cyc = s.cyc + e.base + k

/-- R125: no architectural result depends on CYC. Two machines that differ only in CYC by n still do after a step. -/
def Obligations.CyclesDoNotInterfere : Prop :=
  ∀ (s : State) (n : Nat), step { s with cyc := s.cyc + n } =
    match step s with
    | .next t => .next { t with cyc := t.cyc + n }
    | .fault f => .fault f
    | .refused r => .refused r

/-- R304, items 1 and 2: an ERR on the opcode fetch halts the step before any other access, one on the first operand byte
before any later access, and one on the second operand byte, which is asked for after the first, before any later access. -/
def Obligations.FetchErrorsComeFirst : Prop :=
  (∀ (s : State), s.halted = false → admitted s.cfg.table = true → portAnswer s s.pc = none →
    step s = .next (haltedBy s .memRead s.pc (s.clearBus.logRead s.pc))) ∧
  (∀ (s t : State) (e : Entry) (op : Byte), s.halted = false → admitted s.cfg.table = true →
    sees s.clearBus s.pc = some (op, t) → s.cfg.table[op.toNat]? = some e →
    (1 ≤ modeBytes e.mode → portAnswer t (s.pc + 1) = none →
      step s = .next (haltedBy s .memRead (s.pc + 1) (t.logRead (s.pc + 1)))) ∧
    (modeBytes e.mode = 2 → ∀ (b : Byte) (u : State), sees t (s.pc + 1) = some (b, u) → portAnswer u (s.pc + 2) = none →
      step s = .next (haltedBy s .memRead (s.pc + 2) (u.logRead (s.pc + 2)))))

/-! ### The addressing modes -/

/-- R101 to R114: a resolver whose pointer reads are answered, by storage or by a device, sets the effective address, the
page-crossed flag, the immediate operand or the branch offset of its mode, moves PC past the instruction, and changes
nothing else. -/
def Obligations.ResolversFollowTheirFormulas : Prop :=
  ∀ (o : Operand) (s t : State) (ptr : Word), pointer s o = some (ptr, t) → ∃ c,
    resolve o s = .ok c (t.setPC (nextPC s o)) ∧
    c.mode = o.mode ∧ c.ea = effAddr s o ptr ∧ c.pcCross = crosses s o ptr ∧ c.taken = false ∧ c.extra = 0 ∧
    (∀ b, o = .immediate b → c.opnd = b) ∧ (∀ off, o = .relative off → c.off = off)

/-- R112: the Indirect mode reads its target's low byte at the pointer, then the high byte at the start of the same page
when the pointer's low byte is 0xFF and at the next address otherwise. -/
def Obligations.IndirectStaysInItsPage : Prop :=
  ∀ (s t u : State) (hb lb lo hi : Byte) (hiaddr : Word),
    hiaddr = (if lb = 0xFF then hiLo hb 0x00 else hiLo hb lb + 1) →
    sees s (hiLo hb lb) = some (lo, t) → sees t hiaddr = some (hi, u) → ∃ c,
    resolve (.indirect (hiLo hb lb)) s = .ok c (u.setPC (s.pc + 3)) ∧ c.ea = hiLo hi lo ∧ c.pcCross = false

/-- R111 with R108: the carry out of the low byte is a page crossing in the sense of the other indexed modes: adding an
index leaves the base's page exactly when the low-byte sum exceeds 0xFF. -/
def Obligations.LowByteCarryIsPageCrossing : Prop :=
  ∀ (base : Word) (y : Byte), pagesDiffer (base + zext16 y) base = decide (0xFF < (lo8 base).toNat + y.toNat)

/-! ### The ALU and the flags -/

/-- R26, with `SetNZ` of R8: writing a flag changes exactly that bit of P; `SetNZ` makes N bit 7 of the value and Z 1
exactly for zero, and changes no other bit. -/
def Obligations.FlagWritesTouchTheirBits : Prop :=
  (∀ (f : Flag) (b : Bool) (p : Byte) (k : Nat), k < 8 →
    (setFlag f b p).getLsbD k = if k = f.bit then b else p.getLsbD k) ∧
  ∀ (v p : Byte), flag .n (setNZ v p) = v.getLsbD 7 ∧ flag .z (setNZ v p) = decide (v.toNat = 0) ∧
    ∀ k, k < 7 → k ≠ 1 → (setNZ v p).getLsbD k = p.getLsbD k

/-- R141: the adder's result is the sum modulo 256 and its carry is bit 8 of the sum; overflow is set when the operands
have the same sign and the result's differs, that is, when the signed sum lies outside -128..127. -/
def Obligations.AdderIsTheIntegerSum : Prop :=
  ∀ (a m : Byte) (cin : Bool),
    (addCore a m cin).1.toNat = (a.toNat + m.toNat + bitNat cin) % 256 ∧
    ((addCore a m cin).2.1 = true ↔ 256 ≤ a.toNat + m.toNat + bitNat cin) ∧
    ((addCore a m cin).2.2 = true ↔
      a.getLsbD 7 = m.getLsbD 7 ∧ (addCore a m cin).1.getLsbD 7 ≠ a.getLsbD 7) ∧
    ((addCore a m cin).2.2 = true ↔
      a.toInt + m.toInt + (bitNat cin : Int) < -128 ∨ 127 < a.toInt + m.toInt + (bitNat cin : Int))

/-- R142: adding the one's complement is subtracting with borrow, and C is 1 exactly when no borrow happened. -/
def Obligations.ComplementSumIsSubtraction : Prop :=
  ∀ (a m : Byte) (cin : Bool),
    (addCore a (m ^^^ 0xFF) cin).1 = a - m - (if cin then 0 else 1) ∧
    ((addCore a (m ^^^ 0xFF) cin).2.1 = true ↔ m.toNat + (1 - bitNat cin) ≤ a.toNat)

/-- R143: `Compare` writes Z for equality, C for unsigned greater or equal, and N by the policy; every other bit of P
stays, and the two policies agree exactly when the difference lies in -128..127. -/
def Obligations.CompareFollowsItsPolicy : Prop :=
  ∀ (reg m p : Byte),
    (∀ less, flag .z (compareFlags less reg m p) = decide (reg.toNat = m.toNat) ∧
      flag .c (compareFlags less reg m p) = decide (m.toNat ≤ reg.toNat) ∧
      ∀ k, 2 ≤ k → k < 7 → (compareFlags less reg m p).getLsbD k = p.getLsbD k) ∧
    flag .n (compareFlags true reg m p) = decide (reg.toNat < m.toNat) ∧
    flag .n (compareFlags false reg m p) = (reg - m).getLsbD 7 ∧
    (compareFlags true reg m p = compareFlags false reg m p ↔
      -128 ≤ (reg.toNat : Int) - m.toNat ∧ (reg.toNat : Int) - m.toNat ≤ 127)

/-- R180 to R183 as arithmetic on unsigned bytes, and that a rotate right undoes a rotate left. -/
def Obligations.ShiftsAreArithmetic : Prop :=
  ∀ (m : Byte) (cin : Bool),
    ((shiftLeft m).result.toNat = 2 * m.toNat % 256 ∧ (shiftLeft m).carry = decide (128 ≤ m.toNat)) ∧
    ((shiftRight m).result.toNat = m.toNat / 2 ∧ (shiftRight m).carry = decide (m.toNat % 2 = 1)) ∧
    ((rotateLeft cin m).result.toNat = (2 * m.toNat + bitNat cin) % 256 ∧
      (rotateLeft cin m).carry = decide (128 ≤ m.toNat)) ∧
    ((rotateRight cin m).result.toNat = m.toNat / 2 + 128 * bitNat cin ∧
      (rotateRight cin m).carry = decide (m.toNat % 2 = 1)) ∧
    rotateRight (rotateLeft cin m).carry (rotateLeft cin m).result = ⟨m, cin⟩

/-! ### The instructions: results, completion and frame -/

/-- Every instruction runs on every pair of R79, whatever the state: `exec` answers a next state, in which it has completed
or has taken a fault (`ExecCompletesOrTakesAFault`). On any other pair, which R80 keeps out of every table, `exec` refuses;
that refusal is the model's choice (notes/assumptions/7.md). -/
def Obligations.ExecCompletesOnLegalPairs : Prop :=
  ∀ (i : Instr) (s : State),
    (i.pairLegal = true → ∃ t, exec i s = .next t) ∧ (i.pairLegal = false → exec i s = .refused .illegalPair)

/-- R140, R142: ADC and SBC, where the support check passes (binary policy, or P.D = 0) and the reads are answered, by
storage or by a device. -/
def Obligations.AdcAndSbcResults : Prop :=
  ∀ (o : Operand) (s t u : State) (ptr : Word) (m : Byte), pointer s o = some (ptr, t) →
    operandSeen s o ptr t = some (m, u) → s.cfg.decimal = .binary ∨ flag .d s.p = false →
    (legalPair .ADC o.mode = true → exec (.adc o) s = .next { advanced s .ADC o ptr u with
      a := (addCore s.a m (flag .c s.p)).1
      p := adderFlags (addCore s.a m (flag .c s.p)) s.p }) ∧
    (legalPair .SBC o.mode = true → exec (.sbc o) s = .next { advanced s .SBC o ptr u with
      a := (addCore s.a (m ^^^ 0xFF) (flag .c s.p)).1
      p := adderFlags (addCore s.a (m ^^^ 0xFF) (flag .c s.p)) s.p })

/-- R29, R304: under `DECIMAL_POLICY = fault`, ADC and SBC with P.D = 1 raise `UNSUPPORTED_DECIMAL` after the pointer reads
and before the operand is read. -/
def Obligations.DecimalFaultComesBeforeTheLoad : Prop :=
  ∀ (o : Operand) (s t : State) (ptr : Word), pointer s o = some (ptr, t) → s.cfg.decimal = .fault →
    flag .d s.p = true →
    (legalPair .ADC o.mode = true → exec (.adc o) s = .next (haltedBy s .unsupportedDecimal s.pc t)) ∧
    (legalPair .SBC o.mode = true → exec (.sbc o) s = .next (haltedBy s .unsupportedDecimal s.pc t))

/-- R144 to R146: CMP, CPX and CPY write P alone, by the configured `CMP_N_POLICY`. -/
def Obligations.CompareResults : Prop :=
  ∀ (o : Operand) (s t u : State) (ptr : Word) (m : Byte), pointer s o = some (ptr, t) →
    operandSeen s o ptr t = some (m, u) →
    (legalPair .CMP o.mode = true → exec (.cmp o) s = .next { advanced s .CMP o ptr u with
      p := compareFlags (s.cfg.cmpN == .unsignedLess) s.a m s.p }) ∧
    (legalPair .CPX o.mode = true → exec (.cpx o) s = .next { advanced s .CPX o ptr u with
      p := compareFlags (s.cfg.cmpN == .unsignedLess) s.x m s.p }) ∧
    (legalPair .CPY o.mode = true → exec (.cpy o) s = .next { advanced s .CPY o ptr u with
      p := compareFlags (s.cfg.cmpN == .unsignedLess) s.y m s.p })

/-- R160 to R162: AND, ORA and EOR write A, and N and Z follow it. -/
def Obligations.LogicResults : Prop :=
  ∀ (o : Operand) (s t u : State) (ptr : Word) (m : Byte), pointer s o = some (ptr, t) →
    operandSeen s o ptr t = some (m, u) →
    (legalPair .AND o.mode = true → exec (.and o) s = .next { advanced s .AND o ptr u with
      a := s.a &&& m, p := setNZ (s.a &&& m) s.p }) ∧
    (legalPair .ORA o.mode = true → exec (.ora o) s = .next { advanced s .ORA o ptr u with
      a := s.a ||| m, p := setNZ (s.a ||| m) s.p }) ∧
    (legalPair .EOR o.mode = true → exec (.eor o) s = .next { advanced s .EOR o ptr u with
      a := s.a ^^^ m, p := setNZ (s.a ^^^ m) s.p })

/-- R163: BIT writes Z from the AND and copies bits 7 and 6 of the operand to N and V; nothing else of P, and not A. -/
def Obligations.BitResult : Prop :=
  ∀ (o : Operand) (s t u : State) (ptr : Word) (m : Byte), pointer s o = some (ptr, t) →
    operandSeen s o ptr t = some (m, u) → legalPair .BIT o.mode = true → ∃ p,
    exec (.bit o) s = .next { advanced s .BIT o ptr u with p := p } ∧
    flag .z p = decide (s.a &&& m = 0) ∧ flag .n p = m.getLsbD 7 ∧ flag .v p = m.getLsbD 6 ∧
    ∀ k, k < 8 → k ≠ 7 → k ≠ 6 → k ≠ 1 → p.getLsbD k = s.p.getLsbD k

/-- R210 to R212: LDA, LDX and LDY load the operand, from storage or from a device, and N and Z follow it. -/
def Obligations.LoadResults : Prop :=
  ∀ (o : Operand) (s t u : State) (ptr : Word) (m : Byte), pointer s o = some (ptr, t) →
    operandSeen s o ptr t = some (m, u) →
    (legalPair .LDA o.mode = true → exec (.lda o) s = .next { advanced s .LDA o ptr u with a := m, p := setNZ m s.p }) ∧
    (legalPair .LDX o.mode = true → exec (.ldx o) s = .next { advanced s .LDX o ptr u with x := m, p := setNZ m s.p }) ∧
    (legalPair .LDY o.mode = true → exec (.ldy o) s = .next { advanced s .LDY o ptr u with y := m, p := setNZ m s.p })

/-- R213 to R215: STA, STX and STY write the register at the effective address, make no read there, and leave P alone. -/
def Obligations.StoreResults : Prop :=
  ∀ (o : Operand) (s t : State) (ptr : Word), pointer s o = some (ptr, t) →
    (legalPair .STA o.mode = true →
      exec (.sta o) s = .next (writeByte (effAddr s o ptr) s.a (advanced s .STA o ptr t))) ∧
    (legalPair .STX o.mode = true →
      exec (.stx o) s = .next (writeByte (effAddr s o ptr) s.x (advanced s .STX o ptr t))) ∧
    (legalPair .STY o.mode = true →
      exec (.sty o) s = .next (writeByte (effAddr s o ptr) s.y (advanced s .STY o ptr t)))

/-- R180 to R183 and R121 in a memory mode: one read and one write at the effective address, then C, N and Z. -/
def Obligations.MemoryShiftResults : Prop :=
  ∀ (o : Operand) (s t u : State) (ptr : Word) (m : Byte), pointer s o = some (ptr, t) →
    operandSeen s o ptr t = some (m, u) → inMemory o = true →
    (legalPair .ASL o.mode = true → exec (.asl o) s = .next
      { writeByte (effAddr s o ptr) (shiftLeft m).result (advanced s .ASL o ptr u) with p := shiftFlags (shiftLeft m) s.p }) ∧
    (legalPair .LSR o.mode = true → exec (.lsr o) s = .next
      { writeByte (effAddr s o ptr) (shiftRight m).result (advanced s .LSR o ptr u) with p := shiftFlags (shiftRight m) s.p }) ∧
    (legalPair .ROL o.mode = true → exec (.rol o) s = .next
      { writeByte (effAddr s o ptr) (rotateLeft (flag .c s.p) m).result (advanced s .ROL o ptr u) with p := shiftFlags (rotateLeft (flag .c s.p) m) s.p }) ∧
    (legalPair .ROR o.mode = true → exec (.ror o) s = .next
      { writeByte (effAddr s o ptr) (rotateRight (flag .c s.p) m).result (advanced s .ROR o ptr u) with p := shiftFlags (rotateRight (flag .c s.p) m) s.p })

/-- R180 to R183 and R121 in Accumulator mode: the result goes to A and there is no memory access. -/
def Obligations.AccumulatorShiftResults : Prop :=
  ∀ (s : State),
    exec (.asl .accumulator) s = .next { s with
      pc := s.pc + 1, a := (shiftLeft s.a).result, p := shiftFlags (shiftLeft s.a) s.p } ∧
    exec (.lsr .accumulator) s = .next { s with
      pc := s.pc + 1, a := (shiftRight s.a).result, p := shiftFlags (shiftRight s.a) s.p } ∧
    exec (.rol .accumulator) s = .next { s with
      pc := s.pc + 1, a := (rotateLeft (flag .c s.p) s.a).result, p := shiftFlags (rotateLeft (flag .c s.p) s.a) s.p } ∧
    exec (.ror .accumulator) s = .next { s with
      pc := s.pc + 1, a := (rotateRight (flag .c s.p) s.a).result, p := shiftFlags (rotateRight (flag .c s.p) s.a) s.p }

/-- R184, R185: INC and DEC write the operand plus or minus 1 at the effective address; N and Z follow it. -/
def Obligations.MemoryIncrementResults : Prop :=
  ∀ (o : Operand) (s t u : State) (ptr : Word) (m : Byte), pointer s o = some (ptr, t) →
    operandSeen s o ptr t = some (m, u) →
    (legalPair .INC o.mode = true → exec (.inc o) s = .next
      { writeByte (effAddr s o ptr) (m + 1) (advanced s .INC o ptr u) with p := setNZ (m + 1) s.p }) ∧
    (legalPair .DEC o.mode = true → exec (.dec o) s = .next
      { writeByte (effAddr s o ptr) (m - 1) (advanced s .DEC o ptr u) with p := setNZ (m - 1) s.p })

/-- R186 to R189 and R216 to R221: INX, INY, DEX, DEY and the six transfers. N and Z follow the register written; TXS
alone leaves P unchanged. -/
def Obligations.RegisterOnlyResults : Prop :=
  ∀ (s : State),
    exec .inx s = .next { s with pc := s.pc + 1, x := s.x + 1, p := setNZ (s.x + 1) s.p } ∧
    exec .iny s = .next { s with pc := s.pc + 1, y := s.y + 1, p := setNZ (s.y + 1) s.p } ∧
    exec .dex s = .next { s with pc := s.pc + 1, x := s.x - 1, p := setNZ (s.x - 1) s.p } ∧
    exec .dey s = .next { s with pc := s.pc + 1, y := s.y - 1, p := setNZ (s.y - 1) s.p } ∧
    exec .tax s = .next { s with pc := s.pc + 1, x := s.a, p := setNZ s.a s.p } ∧
    exec .tay s = .next { s with pc := s.pc + 1, y := s.a, p := setNZ s.a s.p } ∧
    exec .txa s = .next { s with pc := s.pc + 1, a := s.x, p := setNZ s.x s.p } ∧
    exec .tya s = .next { s with pc := s.pc + 1, a := s.y, p := setNZ s.y s.p } ∧
    exec .tsx s = .next { s with pc := s.pc + 1, x := s.sp, p := setNZ s.sp s.p } ∧
    exec .txs s = .next { s with pc := s.pc + 1, sp := s.x }

/-- R240 to R243: PHA and PHP write at `0x0100 + SP` and then decrement SP, PHP pushing `P OR PUSH_B54_MASK`; PLA and PLP
increment SP and then read at `0x0100 + SP`, PLA refreshing N and Z and PLP writing all of P. -/
def Obligations.StackResults : Prop :=
  ∀ (s : State),
    exec .pha s = .next { writeByte (0x0100 + zext16 s.sp) s.a s with pc := s.pc + 1, sp := s.sp - 1 } ∧
    exec .php s = .next
      { writeByte (0x0100 + zext16 s.sp) (s.p ||| s.cfg.pushMask) s with pc := s.pc + 1, sp := s.sp - 1 } ∧
    ∀ (v : Byte) (t : State), sees s (0x0100 + zext16 (s.sp + 1)) = some (v, t) →
      exec .pla s = .next { t with pc := s.pc + 1, sp := s.sp + 1, a := v, p := setNZ v s.p } ∧
      exec .plp s = .next { t with pc := s.pc + 1, sp := s.sp + 1, p := v }

/-- R250: JMP sets PC to the effective address and makes no read there. -/
def Obligations.JmpResult : Prop :=
  ∀ (o : Operand) (s t : State) (ptr : Word), legalPair .JMP o.mode = true → pointer s o = some (ptr, t) →
    exec (.jmp o) s = .next { t with pc := effAddr s o ptr }

/-- R252, R253: JSR pushes the address of its own last byte, high byte first, and sets PC to its target; RTS pulls the low
byte and then the high byte, and PC is one past the address pulled. -/
def Obligations.CallAndReturnResults : Prop :=
  ∀ (s : State),
    (∀ (target : Word), exec (.jsr target) s = .next
      { writeByte (0x0100 + zext16 (s.sp - 1)) (lo8 (s.pc + 2)) (writeByte (0x0100 + zext16 s.sp) (hi8 (s.pc + 2)) s) with
        sp := s.sp - 2, pc := target }) ∧
    ∀ (lo hi : Byte) (t u : State), sees s (0x0100 + zext16 (s.sp + 1)) = some (lo, t) →
      sees t (0x0100 + zext16 (s.sp + 2)) = some (hi, u) →
      exec .rts s = .next { u with sp := s.sp + 2, pc := hiLo hi lo + 1 }

/-- R255, with R254 and R122: the eight branches, their conditions, and where a branch leaves PC and CYC. -/
def Obligations.BranchResults : Prop :=
  ∀ (off : Byte) (s : State),
    exec (.bpl off) s = .next (branched s off (flag .n s.p == false)) ∧
    exec (.bmi off) s = .next (branched s off (flag .n s.p == true)) ∧
    exec (.bvc off) s = .next (branched s off (flag .v s.p == false)) ∧
    exec (.bvs off) s = .next (branched s off (flag .v s.p == true)) ∧
    exec (.bcc off) s = .next (branched s off (flag .c s.p == false)) ∧
    exec (.bcs off) s = .next (branched s off (flag .c s.p == true)) ∧
    exec (.bne off) s = .next (branched s off (flag .z s.p == false)) ∧
    exec (.beq off) s = .next (branched s off (flag .z s.p == true))

/-- R270 to R278: the flag instructions write one flag; NOP and the default entry change PC alone, and the step adds the
base count of their entry. -/
def Obligations.FlagAndNopResults : Prop :=
  ∀ (s : State),
    exec .clc s = .next { s with pc := s.pc + 1, p := setFlag .c false s.p } ∧
    exec .sec s = .next { s with pc := s.pc + 1, p := setFlag .c true s.p } ∧
    exec .cli s = .next { s with pc := s.pc + 1, p := setFlag .i false s.p } ∧
    exec .sei s = .next { s with pc := s.pc + 1, p := setFlag .i true s.p } ∧
    exec .cld s = .next { s with pc := s.pc + 1, p := setFlag .d false s.p } ∧
    exec .sed s = .next { s with pc := s.pc + 1, p := setFlag .d true s.p } ∧
    exec .clv s = .next { s with pc := s.pc + 1, p := setFlag .v false s.p } ∧
    exec .nop s = .next { s with pc := s.pc + 1 } ∧
    ∀ op, exec (.dflt op) s = .next { s with pc := s.pc + 1 }

/-- R278: a step at a default opcode changes exactly PC (by 1) and CYC (by 1). It makes one read, of the opcode. -/
def Obligations.DefaultOpcodeStep : Prop :=
  ∀ (s : State) (op : Byte), s.halted = false → admitted s.cfg.table = true → portAnswer s s.pc = some op →
    s.cfg.table[op.toNat]? = some defaultEntry →
    step s = .next { s with pc := s.pc + 1, cyc := s.cyc + 1, bus := [.rd s.pc (some op)],
                            devLog := deviceLog s s.pc (.rd s.pc (some op)) }

/-- R283, R284, R306, R307 under `INTERRUPT_STUBS = nmos`: BRK reads the vector, pushes the address two past its own and
`P OR 0x30`, sets P.I and jumps through the vector, and P itself keeps its bits 5:4; RTI pulls P, all 8 bits, and then PC,
with no +1. -/
def Obligations.NmosTrapResults : Prop :=
  ∀ (s : State), s.cfg.stubs = .nmos →
    (∀ (lo hi : Byte) (t u : State), sees s 0xFFFE = some (lo, t) → sees t 0xFFFF = some (hi, u) →
      exec .brk s = .next
        { writeByte (0x0100 + zext16 (s.sp - 2)) (s.p ||| 0x30) (writeByte (0x0100 + zext16 (s.sp - 1)) (lo8 (s.pc + 2))
            (writeByte (0x0100 + zext16 s.sp) (hi8 (s.pc + 2)) u)) with
          sp := s.sp - 3, p := setFlag .i true s.p, pc := hiLo hi lo }) ∧
    (∀ (p lo hi : Byte) (t u v : State), sees s (0x0100 + zext16 (s.sp + 1)) = some (p, t) →
      sees t (0x0100 + zext16 (s.sp + 2)) = some (lo, u) → sees u (0x0100 + zext16 (s.sp + 3)) = some (hi, v) →
      exec .rti s = .next { v with sp := s.sp + 3, p := p, pc := hiLo hi lo })

/-- R280, R283, R284, R303 under `INTERRUPT_STUBS = fault`: BRK and RTI halt VCORE, with no other effect. -/
def Obligations.StubsHaltTheMachine : Prop :=
  ∀ (s : State), s.cfg.stubs = .fault →
    exec .brk s = .next (haltedBy s .unsupportedBrk s.pc s) ∧ exec .rti s = .next (haltedBy s .unsupportedRti s.pc s)

/-- R50, R300, R304: where a read of the routine's own is answered with ERR, the instruction raises `MEM_READ` with that
address, makes no later access, and has no other effect: the operand's read of an instruction that loads it, the pulls of
PLA, PLP, RTS and RTI in pull order, and BRK's reads of the vector, low byte first. -/
def Obligations.UnservedOperandHalts : Prop :=
  (∀ (i : Instr) (s t : State) (ptr : Word), i.pairLegal = true → loadsOperand i = true → inMemory i.operand = true →
    pointer s i.operand = some (ptr, t) → portAnswer t (effAddr s i.operand ptr) = none →
    (i.mnemonic ∈ [.ADC, .SBC] → s.cfg.decimal = .binary ∨ flag .d s.p = false) →
    exec i s = .next
      (haltedBy s .memRead (effAddr s i.operand ptr) (t.logRead (effAddr s i.operand ptr)))) ∧
  (∀ (s : State), portAnswer s (stackAddr (s.sp + 1)) = none →
    ∀ i, i ∈ [.pla, .plp, .rts] ∨ i = .rti ∧ s.cfg.stubs = .nmos →
    exec i s = .next (haltedBy s .memRead (stackAddr (s.sp + 1)) (s.logRead (stackAddr (s.sp + 1))))) ∧
  (∀ (s t : State) (v : Byte), sees s (stackAddr (s.sp + 1)) = some (v, t) → portAnswer t (stackAddr (s.sp + 2)) = none →
    ∀ i, i = .rts ∨ i = .rti ∧ s.cfg.stubs = .nmos →
    exec i s = .next (haltedBy s .memRead (stackAddr (s.sp + 2)) (t.logRead (stackAddr (s.sp + 2))))) ∧
  (∀ (s t u : State) (v w : Byte), s.cfg.stubs = .nmos → sees s (stackAddr (s.sp + 1)) = some (v, t) →
    sees t (stackAddr (s.sp + 2)) = some (w, u) → portAnswer u (stackAddr (s.sp + 3)) = none →
    exec .rti s = .next (haltedBy s .memRead (stackAddr (s.sp + 3)) (u.logRead (stackAddr (s.sp + 3))))) ∧
  (∀ (s : State), s.cfg.stubs = .nmos →
    (portAnswer s 0xFFFE = none → exec .brk s = .next (haltedBy s .memRead 0xFFFE (s.logRead 0xFFFE))) ∧
    ∀ (v : Byte) (t : State), sees s 0xFFFE = some (v, t) → portAnswer t 0xFFFF = none →
      exec .brk s = .next (haltedBy s .memRead 0xFFFF (t.logRead 0xFFFF)))

/-- R304, item 3: where the low byte of a pointer is answered with ERR, the step raises `MEM_READ` there and reads no high
byte; where the high byte is, it raises `MEM_READ` there and makes no later access. -/
def Obligations.UnservedPointerHalts : Prop :=
  ∀ (i : Instr) (s : State) (lo hi : Word), i.pairLegal = true → ptrAddrs s i.operand = [lo, hi] →
    (portAnswer s lo = none → exec i s = .next (haltedBy s .memRead lo (s.logRead lo))) ∧
    ∀ (v : Byte) (t : State), sees s lo = some (v, t) → portAnswer t hi = none →
      exec i s = .next (haltedBy s .memRead hi (t.logRead hi))

/-! ### Rules about the whole machine -/

/-- R28, R27: a flag is written only by the instructions R28 lists for it, and bits 5:4 of P only by PLP and, under
`INTERRUPT_STUBS = nmos`, RTI. -/
def Obligations.OnlyWritersChangeFlags : Prop :=
  ∀ (i : Instr) (s t : State), exec i s = .next t →
    (∀ f, i.mnemonic ∉ flagWriters f → flag f t.p = flag f s.p) ∧
    (i.mnemonic ∉ [.PLP, .RTI] → t.p.getLsbD 4 = s.p.getLsbD 4 ∧ t.p.getLsbD 5 = s.p.getLsbD 5)

/-- R21 to R24: A, X, Y and SP are written only by the instructions these rules list. -/
def Obligations.OnlyWritersChangeRegisters : Prop :=
  ∀ (i : Instr) (s t : State), exec i s = .next t →
    (writesA i = false → t.a = s.a) ∧ (writesX i = false → t.x = s.x) ∧ (writesY i = false → t.y = s.y) ∧
    (writesSP i = false → t.sp = s.sp)

/-- The memory frame: every byte outside the addresses an instruction stores to is as before, and where it stores to no
device, the devices see no write. The addresses are those the instruction's own functions give; an instruction that stores
nothing changes no byte. -/
def Obligations.OnlyStoredBytesChange : Prop :=
  ∀ (i : Instr) (s t : State), exec i s = .next t →
    (∀ b, b ∉ storedAddrs i s → peek t b = peek s b) ∧
    ((∀ b ∈ storedAddrs i s, kindAt s.cfg.map b ≠ .device) →
      ∃ l, t.devLog = s.devLog ++ l ∧ ∀ x ∈ l, x.isRead = true)

/-- The run-state frame of an instruction: either it completes, and HALTED, FAULT and FAULT_ADDR are as before and CYC
grows by at most 2, or it takes a fault, and all registers, CYC and memory are as before (R302). No parameter changes. -/
def Obligations.ExecCompletesOrTakesAFault : Prop :=
  ∀ (i : Instr) (s t : State), exec i s = .next t → t.cfg = s.cfg ∧
    ((t.halted = s.halted ∧ t.fault = s.fault ∧ t.faultAddr = s.faultAddr ∧ s.cyc ≤ t.cyc ∧ t.cyc ≤ s.cyc + 2) ∨
      ∃ f a, t = haltedBy s f a t)

/-- R58: plain storage gives back the last byte written to it, and a write leaves every other address alone. R52: in the
unmapped gap a write is discarded and a read gives 0. That a write to a read-only, unserved or device region leaves the
contents alone is the model's choice (notes/assumptions/10.md and 3.md). -/
def Obligations.WrittenByteReadsBack : Prop :=
  ∀ (s : State) (a : Word) (v : Byte), Memory.wf s.mem = true →
    (kindAt s.cfg.map a = .plain → peek (writeByte a v s) a = v) ∧
    (∀ b, b ≠ a → peek (writeByte a v s) b = peek s b) ∧
    (kindAt s.cfg.map a ≠ .plain → (writeByte a v s).mem = s.mem) ∧
    (kindAt s.cfg.map a = .gap → peek (writeByte a v s) a = 0x00)

/-- R253 after R252: on a plain stack, RTS after JSR returns to the instruction after the JSR and restores SP, whatever
the subroutine has done to A, X, Y, P, PC and CYC. -/
def Obligations.RtsReturnsAfterJsr : Prop :=
  ∀ (s t : State) (target pc' : Word) (a' x' y' p' : Byte) (n : Nat), Memory.wf s.mem = true →
    kindAt s.cfg.map (stackAddr s.sp) = .plain → kindAt s.cfg.map (stackAddr (s.sp - 1)) = .plain →
    exec (.jsr target) s = .next t → ∃ u,
      exec .rts { t with a := a', x := x', y := y', p := p', pc := pc', cyc := n } = .next u ∧
      u.pc = s.pc + 3 ∧ u.sp = s.sp ∧ u.a = a' ∧ u.x = x' ∧ u.y = y' ∧ u.p = p' ∧ u.mem = t.mem

/-- R240 with R242 and R241 with R243: on a plain stack a pull gives back what the push stored, and SP is restored. -/
def Obligations.PullUndoesPush : Prop :=
  ∀ (s t : State), Memory.wf s.mem = true → kindAt s.cfg.map (stackAddr s.sp) = .plain →
    (exec .pha s = .next t → ∀ a', ∃ u, exec .pla { t with a := a' } = .next u ∧ u.a = s.a ∧ u.sp = s.sp) ∧
    (exec .php s = .next t → ∀ p', ∃ u, exec .plp { t with p := p' } = .next u ∧
      u.p = s.p ||| s.cfg.pushMask ∧ u.sp = s.sp)

/-- R30, R29: P.I gates nothing, and under the binary policy P.D has no effect on arithmetic. An instruction that does not
itself write or push the bit gives the same next state on a machine with the bit the other way, but for that bit. -/
def Obligations.InterruptAndDecimalBitsGateNothing : Prop :=
  ∀ (i : Instr) (s t : State), i.mnemonic ∉ [.CLI, .SEI, .CLD, .SED, .PHP, .PLP, .BRK, .RTI] → exec i s = .next t →
    exec i { s with p := s.p ^^^ 0x04 } = .next { t with p := t.p ^^^ 0x04 } ∧
    (s.cfg.decimal = .binary → exec i { s with p := s.p ^^^ 0x08 } = .next { t with p := t.p ^^^ 0x08 })

/-- The port against the map, over a step. The devices see their own transactions, each of them, in the order of R57
(R56); the unmapped gap reads as 0 (R52). That ERR comes from an unserved or a device region, and always from an unserved
one, is the model's choice of regions (notes/assumptions/10.md). -/
def Obligations.TransactionsFollowTheMap : Prop :=
  ∀ (s t : State), s.halted = false → step s = .next t →
    t.devLog = s.devLog ++ t.bus.filter (fun x => kindAt s.cfg.map x.addr = .device) ∧
    ∀ (a : Word) (ans : Option Byte), .rd a ans ∈ t.bus →
      (kindAt s.cfg.map a = .gap → ans = some 0x00) ∧
      (ans = none → kindAt s.cfg.map a = .unserved ∨ kindAt s.cfg.map a = .device) ∧
      (kindAt s.cfg.map a = .unserved → ans = none)
end

