-- ==== Sys2Proof/Laws/Bits.lean ====
section
/-! SUPPORT. The byte-order and extension helpers as numbers. -/

namespace Sys2Proof

theorem hiLo_toNat (h l : Byte) : (hiLo h l).toNat = h.toNat * 256 + l.toNat := by
  show (h ++ l : BitVec (8 + 8)).toNat = _
  rw [BitVec.toNat_append, ← Nat.shiftLeft_add_eq_or_of_lt l.isLt, Nat.shiftLeft_eq]

theorem lo8_toNat (w : Word) : (lo8 w).toNat = w.toNat % 256 := by
  simp [lo8, BitVec.extractLsb'_toNat]

theorem hi8_toNat (w : Word) : (hi8 w).toNat = w.toNat / 256 := by
  have := w.isLt
  simp only [hi8, BitVec.extractLsb'_toNat, Nat.shiftRight_eq_div_pow]
  omega

theorem zext16_toNat (b : Byte) : (zext16 b).toNat = b.toNat := by
  have := b.isLt
  simp only [zext16, BitVec.toNat_setWidth]
  omega

@[simp] theorem lo8_hiLo (h l : Byte) : lo8 (hiLo h l) = l := by
  have := l.isLt
  apply BitVec.eq_of_toNat_eq
  rw [lo8_toNat, hiLo_toNat]
  omega

@[simp] theorem hi8_hiLo (h l : Byte) : hi8 (hiLo h l) = h := by
  have := l.isLt
  apply BitVec.eq_of_toNat_eq
  rw [hi8_toNat, hiLo_toNat]
  omega

@[simp] theorem hiLo_hi8_lo8 (w : Word) : hiLo (hi8 w) (lo8 w) = w := by
  apply BitVec.eq_of_toNat_eq
  rw [hiLo_toNat, hi8_toNat, lo8_toNat]
  omega

end Sys2Proof
end

