-- ==== Sys2Proof/Laws/State.lean ====
section
/-! SUPPORT. One lemma per field of State per named update, each true by rfl: no later proof unfolds a record update. -/

namespace Sys2Proof.Machine

/-! ### `setA` -/

@[simp] theorem setA_a (v : Byte) (s : State) : (s.setA v).a = v := rfl
@[simp] theorem setA_x (v : Byte) (s : State) : (s.setA v).x = s.x := rfl
@[simp] theorem setA_y (v : Byte) (s : State) : (s.setA v).y = s.y := rfl
@[simp] theorem setA_sp (v : Byte) (s : State) : (s.setA v).sp = s.sp := rfl
@[simp] theorem setA_p (v : Byte) (s : State) : (s.setA v).p = s.p := rfl
@[simp] theorem setA_pc (v : Byte) (s : State) : (s.setA v).pc = s.pc := rfl
@[simp] theorem setA_cyc (v : Byte) (s : State) : (s.setA v).cyc = s.cyc := rfl
@[simp] theorem setA_halted (v : Byte) (s : State) : (s.setA v).halted = s.halted := rfl
@[simp] theorem setA_fault (v : Byte) (s : State) : (s.setA v).fault = s.fault := rfl
@[simp] theorem setA_faultAddr (v : Byte) (s : State) : (s.setA v).faultAddr = s.faultAddr := rfl
@[simp] theorem setA_mem (v : Byte) (s : State) : (s.setA v).mem = s.mem := rfl
@[simp] theorem setA_cfg (v : Byte) (s : State) : (s.setA v).cfg = s.cfg := rfl
@[simp] theorem setA_devLog (v : Byte) (s : State) : (s.setA v).devLog = s.devLog := rfl
@[simp] theorem setA_bus (v : Byte) (s : State) : (s.setA v).bus = s.bus := rfl

/-! ### `setX` -/

@[simp] theorem setX_a (v : Byte) (s : State) : (s.setX v).a = s.a := rfl
@[simp] theorem setX_x (v : Byte) (s : State) : (s.setX v).x = v := rfl
@[simp] theorem setX_y (v : Byte) (s : State) : (s.setX v).y = s.y := rfl
@[simp] theorem setX_sp (v : Byte) (s : State) : (s.setX v).sp = s.sp := rfl
@[simp] theorem setX_p (v : Byte) (s : State) : (s.setX v).p = s.p := rfl
@[simp] theorem setX_pc (v : Byte) (s : State) : (s.setX v).pc = s.pc := rfl
@[simp] theorem setX_cyc (v : Byte) (s : State) : (s.setX v).cyc = s.cyc := rfl
@[simp] theorem setX_halted (v : Byte) (s : State) : (s.setX v).halted = s.halted := rfl
@[simp] theorem setX_fault (v : Byte) (s : State) : (s.setX v).fault = s.fault := rfl
@[simp] theorem setX_faultAddr (v : Byte) (s : State) : (s.setX v).faultAddr = s.faultAddr := rfl
@[simp] theorem setX_mem (v : Byte) (s : State) : (s.setX v).mem = s.mem := rfl
@[simp] theorem setX_cfg (v : Byte) (s : State) : (s.setX v).cfg = s.cfg := rfl
@[simp] theorem setX_devLog (v : Byte) (s : State) : (s.setX v).devLog = s.devLog := rfl
@[simp] theorem setX_bus (v : Byte) (s : State) : (s.setX v).bus = s.bus := rfl

/-! ### `setY` -/

@[simp] theorem setY_a (v : Byte) (s : State) : (s.setY v).a = s.a := rfl
@[simp] theorem setY_x (v : Byte) (s : State) : (s.setY v).x = s.x := rfl
@[simp] theorem setY_y (v : Byte) (s : State) : (s.setY v).y = v := rfl
@[simp] theorem setY_sp (v : Byte) (s : State) : (s.setY v).sp = s.sp := rfl
@[simp] theorem setY_p (v : Byte) (s : State) : (s.setY v).p = s.p := rfl
@[simp] theorem setY_pc (v : Byte) (s : State) : (s.setY v).pc = s.pc := rfl
@[simp] theorem setY_cyc (v : Byte) (s : State) : (s.setY v).cyc = s.cyc := rfl
@[simp] theorem setY_halted (v : Byte) (s : State) : (s.setY v).halted = s.halted := rfl
@[simp] theorem setY_fault (v : Byte) (s : State) : (s.setY v).fault = s.fault := rfl
@[simp] theorem setY_faultAddr (v : Byte) (s : State) : (s.setY v).faultAddr = s.faultAddr := rfl
@[simp] theorem setY_mem (v : Byte) (s : State) : (s.setY v).mem = s.mem := rfl
@[simp] theorem setY_cfg (v : Byte) (s : State) : (s.setY v).cfg = s.cfg := rfl
@[simp] theorem setY_devLog (v : Byte) (s : State) : (s.setY v).devLog = s.devLog := rfl
@[simp] theorem setY_bus (v : Byte) (s : State) : (s.setY v).bus = s.bus := rfl

/-! ### `setSP` -/

@[simp] theorem setSP_a (v : Byte) (s : State) : (s.setSP v).a = s.a := rfl
@[simp] theorem setSP_x (v : Byte) (s : State) : (s.setSP v).x = s.x := rfl
@[simp] theorem setSP_y (v : Byte) (s : State) : (s.setSP v).y = s.y := rfl
@[simp] theorem setSP_sp (v : Byte) (s : State) : (s.setSP v).sp = v := rfl
@[simp] theorem setSP_p (v : Byte) (s : State) : (s.setSP v).p = s.p := rfl
@[simp] theorem setSP_pc (v : Byte) (s : State) : (s.setSP v).pc = s.pc := rfl
@[simp] theorem setSP_cyc (v : Byte) (s : State) : (s.setSP v).cyc = s.cyc := rfl
@[simp] theorem setSP_halted (v : Byte) (s : State) : (s.setSP v).halted = s.halted := rfl
@[simp] theorem setSP_fault (v : Byte) (s : State) : (s.setSP v).fault = s.fault := rfl
@[simp] theorem setSP_faultAddr (v : Byte) (s : State) : (s.setSP v).faultAddr = s.faultAddr := rfl
@[simp] theorem setSP_mem (v : Byte) (s : State) : (s.setSP v).mem = s.mem := rfl
@[simp] theorem setSP_cfg (v : Byte) (s : State) : (s.setSP v).cfg = s.cfg := rfl
@[simp] theorem setSP_devLog (v : Byte) (s : State) : (s.setSP v).devLog = s.devLog := rfl
@[simp] theorem setSP_bus (v : Byte) (s : State) : (s.setSP v).bus = s.bus := rfl

/-! ### `setP` -/

@[simp] theorem setP_a (v : Byte) (s : State) : (s.setP v).a = s.a := rfl
@[simp] theorem setP_x (v : Byte) (s : State) : (s.setP v).x = s.x := rfl
@[simp] theorem setP_y (v : Byte) (s : State) : (s.setP v).y = s.y := rfl
@[simp] theorem setP_sp (v : Byte) (s : State) : (s.setP v).sp = s.sp := rfl
@[simp] theorem setP_p (v : Byte) (s : State) : (s.setP v).p = v := rfl
@[simp] theorem setP_pc (v : Byte) (s : State) : (s.setP v).pc = s.pc := rfl
@[simp] theorem setP_cyc (v : Byte) (s : State) : (s.setP v).cyc = s.cyc := rfl
@[simp] theorem setP_halted (v : Byte) (s : State) : (s.setP v).halted = s.halted := rfl
@[simp] theorem setP_fault (v : Byte) (s : State) : (s.setP v).fault = s.fault := rfl
@[simp] theorem setP_faultAddr (v : Byte) (s : State) : (s.setP v).faultAddr = s.faultAddr := rfl
@[simp] theorem setP_mem (v : Byte) (s : State) : (s.setP v).mem = s.mem := rfl
@[simp] theorem setP_cfg (v : Byte) (s : State) : (s.setP v).cfg = s.cfg := rfl
@[simp] theorem setP_devLog (v : Byte) (s : State) : (s.setP v).devLog = s.devLog := rfl
@[simp] theorem setP_bus (v : Byte) (s : State) : (s.setP v).bus = s.bus := rfl

/-! ### `setPC` -/

@[simp] theorem setPC_a (v : Word) (s : State) : (s.setPC v).a = s.a := rfl
@[simp] theorem setPC_x (v : Word) (s : State) : (s.setPC v).x = s.x := rfl
@[simp] theorem setPC_y (v : Word) (s : State) : (s.setPC v).y = s.y := rfl
@[simp] theorem setPC_sp (v : Word) (s : State) : (s.setPC v).sp = s.sp := rfl
@[simp] theorem setPC_p (v : Word) (s : State) : (s.setPC v).p = s.p := rfl
@[simp] theorem setPC_pc (v : Word) (s : State) : (s.setPC v).pc = v := rfl
@[simp] theorem setPC_cyc (v : Word) (s : State) : (s.setPC v).cyc = s.cyc := rfl
@[simp] theorem setPC_halted (v : Word) (s : State) : (s.setPC v).halted = s.halted := rfl
@[simp] theorem setPC_fault (v : Word) (s : State) : (s.setPC v).fault = s.fault := rfl
@[simp] theorem setPC_faultAddr (v : Word) (s : State) : (s.setPC v).faultAddr = s.faultAddr := rfl
@[simp] theorem setPC_mem (v : Word) (s : State) : (s.setPC v).mem = s.mem := rfl
@[simp] theorem setPC_cfg (v : Word) (s : State) : (s.setPC v).cfg = s.cfg := rfl
@[simp] theorem setPC_devLog (v : Word) (s : State) : (s.setPC v).devLog = s.devLog := rfl
@[simp] theorem setPC_bus (v : Word) (s : State) : (s.setPC v).bus = s.bus := rfl

/-! ### `addCyc` -/

@[simp] theorem addCyc_a (n : Nat) (s : State) : (s.addCyc n).a = s.a := rfl
@[simp] theorem addCyc_x (n : Nat) (s : State) : (s.addCyc n).x = s.x := rfl
@[simp] theorem addCyc_y (n : Nat) (s : State) : (s.addCyc n).y = s.y := rfl
@[simp] theorem addCyc_sp (n : Nat) (s : State) : (s.addCyc n).sp = s.sp := rfl
@[simp] theorem addCyc_p (n : Nat) (s : State) : (s.addCyc n).p = s.p := rfl
@[simp] theorem addCyc_pc (n : Nat) (s : State) : (s.addCyc n).pc = s.pc := rfl
@[simp] theorem addCyc_cyc (n : Nat) (s : State) : (s.addCyc n).cyc = s.cyc + n := rfl
@[simp] theorem addCyc_halted (n : Nat) (s : State) : (s.addCyc n).halted = s.halted := rfl
@[simp] theorem addCyc_fault (n : Nat) (s : State) : (s.addCyc n).fault = s.fault := rfl
@[simp] theorem addCyc_faultAddr (n : Nat) (s : State) : (s.addCyc n).faultAddr = s.faultAddr := rfl
@[simp] theorem addCyc_mem (n : Nat) (s : State) : (s.addCyc n).mem = s.mem := rfl
@[simp] theorem addCyc_cfg (n : Nat) (s : State) : (s.addCyc n).cfg = s.cfg := rfl
@[simp] theorem addCyc_devLog (n : Nat) (s : State) : (s.addCyc n).devLog = s.devLog := rfl
@[simp] theorem addCyc_bus (n : Nat) (s : State) : (s.addCyc n).bus = s.bus := rfl

/-! ### `logRead` -/

@[simp] theorem logRead_a (a : Word) (s : State) : (s.logRead a).a = s.a := rfl
@[simp] theorem logRead_x (a : Word) (s : State) : (s.logRead a).x = s.x := rfl
@[simp] theorem logRead_y (a : Word) (s : State) : (s.logRead a).y = s.y := rfl
@[simp] theorem logRead_sp (a : Word) (s : State) : (s.logRead a).sp = s.sp := rfl
@[simp] theorem logRead_p (a : Word) (s : State) : (s.logRead a).p = s.p := rfl
@[simp] theorem logRead_pc (a : Word) (s : State) : (s.logRead a).pc = s.pc := rfl
@[simp] theorem logRead_cyc (a : Word) (s : State) : (s.logRead a).cyc = s.cyc := rfl
@[simp] theorem logRead_halted (a : Word) (s : State) : (s.logRead a).halted = s.halted := rfl
@[simp] theorem logRead_fault (a : Word) (s : State) : (s.logRead a).fault = s.fault := rfl
@[simp] theorem logRead_faultAddr (a : Word) (s : State) : (s.logRead a).faultAddr = s.faultAddr := rfl
@[simp] theorem logRead_mem (a : Word) (s : State) : (s.logRead a).mem = s.mem := rfl
@[simp] theorem logRead_cfg (a : Word) (s : State) : (s.logRead a).cfg = s.cfg := rfl
@[simp] theorem logRead_devLog (a : Word) (s : State) : (s.logRead a).devLog = deviceLog s a (.rd a (portAnswer s a)) := rfl
@[simp] theorem logRead_bus (a : Word) (s : State) : (s.logRead a).bus = s.bus ++ [.rd a (portAnswer s a)] := rfl

/-! ### `writeByte` -/

@[simp] theorem writeByte_a (a : Word) (v : Byte) (s : State) : (writeByte a v s).a = s.a := rfl
@[simp] theorem writeByte_x (a : Word) (v : Byte) (s : State) : (writeByte a v s).x = s.x := rfl
@[simp] theorem writeByte_y (a : Word) (v : Byte) (s : State) : (writeByte a v s).y = s.y := rfl
@[simp] theorem writeByte_sp (a : Word) (v : Byte) (s : State) : (writeByte a v s).sp = s.sp := rfl
@[simp] theorem writeByte_p (a : Word) (v : Byte) (s : State) : (writeByte a v s).p = s.p := rfl
@[simp] theorem writeByte_pc (a : Word) (v : Byte) (s : State) : (writeByte a v s).pc = s.pc := rfl
@[simp] theorem writeByte_cyc (a : Word) (v : Byte) (s : State) : (writeByte a v s).cyc = s.cyc := rfl
@[simp] theorem writeByte_halted (a : Word) (v : Byte) (s : State) : (writeByte a v s).halted = s.halted := rfl
@[simp] theorem writeByte_fault (a : Word) (v : Byte) (s : State) : (writeByte a v s).fault = s.fault := rfl
@[simp] theorem writeByte_faultAddr (a : Word) (v : Byte) (s : State) : (writeByte a v s).faultAddr = s.faultAddr := rfl
@[simp] theorem writeByte_mem (a : Word) (v : Byte) (s : State) : (writeByte a v s).mem = (match kindAt s.cfg.map a with
        | .plain => Memory.set s.mem a.toNat v
        | .readOnly | .gap | .unserved | .device => s.mem) := rfl
@[simp] theorem writeByte_cfg (a : Word) (v : Byte) (s : State) : (writeByte a v s).cfg = s.cfg := rfl
@[simp] theorem writeByte_devLog (a : Word) (v : Byte) (s : State) : (writeByte a v s).devLog = deviceLog s a (.wr a v) := rfl
@[simp] theorem writeByte_bus (a : Word) (v : Byte) (s : State) : (writeByte a v s).bus = s.bus ++ [.wr a v] := rfl

/-! ### `push` -/

@[simp] theorem push_a (v : Byte) (s : State) : (push v s).a = s.a := rfl
@[simp] theorem push_x (v : Byte) (s : State) : (push v s).x = s.x := rfl
@[simp] theorem push_y (v : Byte) (s : State) : (push v s).y = s.y := rfl
@[simp] theorem push_sp (v : Byte) (s : State) : (push v s).sp = s.sp - 1 := rfl
@[simp] theorem push_p (v : Byte) (s : State) : (push v s).p = s.p := rfl
@[simp] theorem push_pc (v : Byte) (s : State) : (push v s).pc = s.pc := rfl
@[simp] theorem push_cyc (v : Byte) (s : State) : (push v s).cyc = s.cyc := rfl
@[simp] theorem push_halted (v : Byte) (s : State) : (push v s).halted = s.halted := rfl
@[simp] theorem push_fault (v : Byte) (s : State) : (push v s).fault = s.fault := rfl
@[simp] theorem push_faultAddr (v : Byte) (s : State) : (push v s).faultAddr = s.faultAddr := rfl
@[simp] theorem push_mem (v : Byte) (s : State) : (push v s).mem = (writeByte (stackAddr s.sp) v s).mem := rfl
@[simp] theorem push_cfg (v : Byte) (s : State) : (push v s).cfg = s.cfg := rfl
@[simp] theorem push_devLog (v : Byte) (s : State) : (push v s).devLog = deviceLog s (stackAddr s.sp) (.wr (stackAddr s.sp) v) := rfl
@[simp] theorem push_bus (v : Byte) (s : State) : (push v s).bus = s.bus ++ [.wr (stackAddr s.sp) v] := rfl

/-! ### `takeFault` -/

@[simp] theorem takeFault_a (s₀ : State) (f : Fault) (a : Word) (s : State) : (takeFault s₀ f a s).a = s₀.a := rfl
@[simp] theorem takeFault_x (s₀ : State) (f : Fault) (a : Word) (s : State) : (takeFault s₀ f a s).x = s₀.x := rfl
@[simp] theorem takeFault_y (s₀ : State) (f : Fault) (a : Word) (s : State) : (takeFault s₀ f a s).y = s₀.y := rfl
@[simp] theorem takeFault_sp (s₀ : State) (f : Fault) (a : Word) (s : State) : (takeFault s₀ f a s).sp = s₀.sp := rfl
@[simp] theorem takeFault_p (s₀ : State) (f : Fault) (a : Word) (s : State) : (takeFault s₀ f a s).p = s₀.p := rfl
@[simp] theorem takeFault_pc (s₀ : State) (f : Fault) (a : Word) (s : State) : (takeFault s₀ f a s).pc = s₀.pc := rfl
@[simp] theorem takeFault_cyc (s₀ : State) (f : Fault) (a : Word) (s : State) : (takeFault s₀ f a s).cyc = s₀.cyc := rfl
@[simp] theorem takeFault_halted (s₀ : State) (f : Fault) (a : Word) (s : State) : (takeFault s₀ f a s).halted = true := rfl
@[simp] theorem takeFault_fault (s₀ : State) (f : Fault) (a : Word) (s : State) : (takeFault s₀ f a s).fault = some f := rfl
@[simp] theorem takeFault_faultAddr (s₀ : State) (f : Fault) (a : Word) (s : State) : (takeFault s₀ f a s).faultAddr = a := rfl
@[simp] theorem takeFault_mem (s₀ : State) (f : Fault) (a : Word) (s : State) : (takeFault s₀ f a s).mem = s.mem := rfl
@[simp] theorem takeFault_cfg (s₀ : State) (f : Fault) (a : Word) (s : State) : (takeFault s₀ f a s).cfg = s.cfg := rfl
@[simp] theorem takeFault_devLog (s₀ : State) (f : Fault) (a : Word) (s : State) : (takeFault s₀ f a s).devLog = s.devLog := rfl
@[simp] theorem takeFault_bus (s₀ : State) (f : Fault) (a : Word) (s : State) : (takeFault s₀ f a s).bus = s.bus := rfl

/-! ### `clearBus` -/

@[simp] theorem clearBus_a (s : State) : (s.clearBus).a = s.a := rfl
@[simp] theorem clearBus_x (s : State) : (s.clearBus).x = s.x := rfl
@[simp] theorem clearBus_y (s : State) : (s.clearBus).y = s.y := rfl
@[simp] theorem clearBus_sp (s : State) : (s.clearBus).sp = s.sp := rfl
@[simp] theorem clearBus_p (s : State) : (s.clearBus).p = s.p := rfl
@[simp] theorem clearBus_pc (s : State) : (s.clearBus).pc = s.pc := rfl
@[simp] theorem clearBus_cyc (s : State) : (s.clearBus).cyc = s.cyc := rfl
@[simp] theorem clearBus_halted (s : State) : (s.clearBus).halted = s.halted := rfl
@[simp] theorem clearBus_fault (s : State) : (s.clearBus).fault = s.fault := rfl
@[simp] theorem clearBus_faultAddr (s : State) : (s.clearBus).faultAddr = s.faultAddr := rfl
@[simp] theorem clearBus_mem (s : State) : (s.clearBus).mem = s.mem := rfl
@[simp] theorem clearBus_cfg (s : State) : (s.clearBus).cfg = s.cfg := rfl
@[simp] theorem clearBus_devLog (s : State) : (s.clearBus).devLog = s.devLog := rfl
@[simp] theorem clearBus_bus (s : State) : (s.clearBus).bus = [] := rfl

/-! ### `resetWith` -/

@[simp] theorem resetWith_a (i : Init) (s : State) : (s.resetWith i).a = i.a := rfl
@[simp] theorem resetWith_x (i : Init) (s : State) : (s.resetWith i).x = i.x := rfl
@[simp] theorem resetWith_y (i : Init) (s : State) : (s.resetWith i).y = i.y := rfl
@[simp] theorem resetWith_sp (i : Init) (s : State) : (s.resetWith i).sp = i.sp := rfl
@[simp] theorem resetWith_p (i : Init) (s : State) : (s.resetWith i).p = i.p := rfl
@[simp] theorem resetWith_pc (i : Init) (s : State) : (s.resetWith i).pc = i.pc := rfl
@[simp] theorem resetWith_cyc (i : Init) (s : State) : (s.resetWith i).cyc = 0 := rfl
@[simp] theorem resetWith_halted (i : Init) (s : State) : (s.resetWith i).halted = false := rfl
@[simp] theorem resetWith_fault (i : Init) (s : State) : (s.resetWith i).fault = none := rfl
@[simp] theorem resetWith_faultAddr (i : Init) (s : State) : (s.resetWith i).faultAddr = 0x0000 := rfl
@[simp] theorem resetWith_mem (i : Init) (s : State) : (s.resetWith i).mem = s.mem := rfl
@[simp] theorem resetWith_cfg (i : Init) (s : State) : (s.resetWith i).cfg = s.cfg := rfl
@[simp] theorem resetWith_devLog (i : Init) (s : State) : (s.resetWith i).devLog = s.devLog := rfl
@[simp] theorem resetWith_bus (i : Init) (s : State) : (s.resetWith i).bus = [] := rfl

/-! ### `updateA` -/

@[simp] theorem updateA_a (v : Byte) (s : State) : (s.updateA v).a = v := rfl
@[simp] theorem updateA_x (v : Byte) (s : State) : (s.updateA v).x = s.x := rfl
@[simp] theorem updateA_y (v : Byte) (s : State) : (s.updateA v).y = s.y := rfl
@[simp] theorem updateA_sp (v : Byte) (s : State) : (s.updateA v).sp = s.sp := rfl
@[simp] theorem updateA_p (v : Byte) (s : State) : (s.updateA v).p = setNZ v s.p := rfl
@[simp] theorem updateA_pc (v : Byte) (s : State) : (s.updateA v).pc = s.pc := rfl
@[simp] theorem updateA_cyc (v : Byte) (s : State) : (s.updateA v).cyc = s.cyc := rfl
@[simp] theorem updateA_halted (v : Byte) (s : State) : (s.updateA v).halted = s.halted := rfl
@[simp] theorem updateA_fault (v : Byte) (s : State) : (s.updateA v).fault = s.fault := rfl
@[simp] theorem updateA_faultAddr (v : Byte) (s : State) : (s.updateA v).faultAddr = s.faultAddr := rfl
@[simp] theorem updateA_mem (v : Byte) (s : State) : (s.updateA v).mem = s.mem := rfl
@[simp] theorem updateA_cfg (v : Byte) (s : State) : (s.updateA v).cfg = s.cfg := rfl
@[simp] theorem updateA_devLog (v : Byte) (s : State) : (s.updateA v).devLog = s.devLog := rfl
@[simp] theorem updateA_bus (v : Byte) (s : State) : (s.updateA v).bus = s.bus := rfl

/-! ### `updateX` -/

@[simp] theorem updateX_a (v : Byte) (s : State) : (s.updateX v).a = s.a := rfl
@[simp] theorem updateX_x (v : Byte) (s : State) : (s.updateX v).x = v := rfl
@[simp] theorem updateX_y (v : Byte) (s : State) : (s.updateX v).y = s.y := rfl
@[simp] theorem updateX_sp (v : Byte) (s : State) : (s.updateX v).sp = s.sp := rfl
@[simp] theorem updateX_p (v : Byte) (s : State) : (s.updateX v).p = setNZ v s.p := rfl
@[simp] theorem updateX_pc (v : Byte) (s : State) : (s.updateX v).pc = s.pc := rfl
@[simp] theorem updateX_cyc (v : Byte) (s : State) : (s.updateX v).cyc = s.cyc := rfl
@[simp] theorem updateX_halted (v : Byte) (s : State) : (s.updateX v).halted = s.halted := rfl
@[simp] theorem updateX_fault (v : Byte) (s : State) : (s.updateX v).fault = s.fault := rfl
@[simp] theorem updateX_faultAddr (v : Byte) (s : State) : (s.updateX v).faultAddr = s.faultAddr := rfl
@[simp] theorem updateX_mem (v : Byte) (s : State) : (s.updateX v).mem = s.mem := rfl
@[simp] theorem updateX_cfg (v : Byte) (s : State) : (s.updateX v).cfg = s.cfg := rfl
@[simp] theorem updateX_devLog (v : Byte) (s : State) : (s.updateX v).devLog = s.devLog := rfl
@[simp] theorem updateX_bus (v : Byte) (s : State) : (s.updateX v).bus = s.bus := rfl

/-! ### `updateY` -/

@[simp] theorem updateY_a (v : Byte) (s : State) : (s.updateY v).a = s.a := rfl
@[simp] theorem updateY_x (v : Byte) (s : State) : (s.updateY v).x = s.x := rfl
@[simp] theorem updateY_y (v : Byte) (s : State) : (s.updateY v).y = v := rfl
@[simp] theorem updateY_sp (v : Byte) (s : State) : (s.updateY v).sp = s.sp := rfl
@[simp] theorem updateY_p (v : Byte) (s : State) : (s.updateY v).p = setNZ v s.p := rfl
@[simp] theorem updateY_pc (v : Byte) (s : State) : (s.updateY v).pc = s.pc := rfl
@[simp] theorem updateY_cyc (v : Byte) (s : State) : (s.updateY v).cyc = s.cyc := rfl
@[simp] theorem updateY_halted (v : Byte) (s : State) : (s.updateY v).halted = s.halted := rfl
@[simp] theorem updateY_fault (v : Byte) (s : State) : (s.updateY v).fault = s.fault := rfl
@[simp] theorem updateY_faultAddr (v : Byte) (s : State) : (s.updateY v).faultAddr = s.faultAddr := rfl
@[simp] theorem updateY_mem (v : Byte) (s : State) : (s.updateY v).mem = s.mem := rfl
@[simp] theorem updateY_cfg (v : Byte) (s : State) : (s.updateY v).cfg = s.cfg := rfl
@[simp] theorem updateY_devLog (v : Byte) (s : State) : (s.updateY v).devLog = s.devLog := rfl
@[simp] theorem updateY_bus (v : Byte) (s : State) : (s.updateY v).bus = s.bus := rfl

/-! ### `finish` -/

@[simp] theorem finish_a (m : Mnemonic) (c : Ctx) (s : State) : (finish m c s).a = s.a := rfl
@[simp] theorem finish_x (m : Mnemonic) (c : Ctx) (s : State) : (finish m c s).x = s.x := rfl
@[simp] theorem finish_y (m : Mnemonic) (c : Ctx) (s : State) : (finish m c s).y = s.y := rfl
@[simp] theorem finish_sp (m : Mnemonic) (c : Ctx) (s : State) : (finish m c s).sp = s.sp := rfl
@[simp] theorem finish_p (m : Mnemonic) (c : Ctx) (s : State) : (finish m c s).p = s.p := rfl
@[simp] theorem finish_pc (m : Mnemonic) (c : Ctx) (s : State) : (finish m c s).pc = (if c.taken then s.pc + sext16 c.off else s.pc) := rfl
@[simp] theorem finish_cyc (m : Mnemonic) (c : Ctx) (s : State) : (finish m c s).cyc = s.cyc + (c.extra + penalty s.cfg.penaltyClass m c + branchCycles c) := rfl
@[simp] theorem finish_halted (m : Mnemonic) (c : Ctx) (s : State) : (finish m c s).halted = s.halted := rfl
@[simp] theorem finish_fault (m : Mnemonic) (c : Ctx) (s : State) : (finish m c s).fault = s.fault := rfl
@[simp] theorem finish_faultAddr (m : Mnemonic) (c : Ctx) (s : State) : (finish m c s).faultAddr = s.faultAddr := rfl
@[simp] theorem finish_mem (m : Mnemonic) (c : Ctx) (s : State) : (finish m c s).mem = s.mem := rfl
@[simp] theorem finish_cfg (m : Mnemonic) (c : Ctx) (s : State) : (finish m c s).cfg = s.cfg := rfl
@[simp] theorem finish_devLog (m : Mnemonic) (c : Ctx) (s : State) : (finish m c s).devLog = s.devLog := rfl
@[simp] theorem finish_bus (m : Mnemonic) (c : Ctx) (s : State) : (finish m c s).bus = s.bus := rfl

/-! ### `placeInstr` -/

@[simp] theorem placeInstr_a (bs : List Byte) (s : State) : (placeInstr bs s).a = s.a := rfl
@[simp] theorem placeInstr_x (bs : List Byte) (s : State) : (placeInstr bs s).x = s.x := rfl
@[simp] theorem placeInstr_y (bs : List Byte) (s : State) : (placeInstr bs s).y = s.y := rfl
@[simp] theorem placeInstr_sp (bs : List Byte) (s : State) : (placeInstr bs s).sp = s.sp := rfl
@[simp] theorem placeInstr_p (bs : List Byte) (s : State) : (placeInstr bs s).p = s.p := rfl
@[simp] theorem placeInstr_pc (bs : List Byte) (s : State) : (placeInstr bs s).pc = s.pc := rfl
@[simp] theorem placeInstr_cyc (bs : List Byte) (s : State) : (placeInstr bs s).cyc = s.cyc := rfl
@[simp] theorem placeInstr_halted (bs : List Byte) (s : State) : (placeInstr bs s).halted = false := rfl
@[simp] theorem placeInstr_fault (bs : List Byte) (s : State) : (placeInstr bs s).fault = (if s.halted then none else s.fault) := rfl
@[simp] theorem placeInstr_faultAddr (bs : List Byte) (s : State) : (placeInstr bs s).faultAddr = (if s.halted then 0x0000 else s.faultAddr) := rfl
@[simp] theorem placeInstr_mem (bs : List Byte) (s : State) : (placeInstr bs s).mem = layBytes s.mem s.pc bs := rfl
@[simp] theorem placeInstr_cfg (bs : List Byte) (s : State) : (placeInstr bs s).cfg = { s.cfg with table := stdTable, map := plainAt s.cfg.map (instrAddrs s.pc) } := rfl
@[simp] theorem placeInstr_devLog (bs : List Byte) (s : State) : (placeInstr bs s).devLog = s.devLog := rfl
@[simp] theorem placeInstr_bus (bs : List Byte) (s : State) : (placeInstr bs s).bus = s.bus := rfl

/-! ### `advanced` -/

@[simp] theorem advanced_a (s : State) (m : Mnemonic) (o : Operand) (ptr : Word) (t : State) :
    (advanced s m o ptr t).a = t.a := rfl
@[simp] theorem advanced_x (s : State) (m : Mnemonic) (o : Operand) (ptr : Word) (t : State) :
    (advanced s m o ptr t).x = t.x := rfl
@[simp] theorem advanced_y (s : State) (m : Mnemonic) (o : Operand) (ptr : Word) (t : State) :
    (advanced s m o ptr t).y = t.y := rfl
@[simp] theorem advanced_sp (s : State) (m : Mnemonic) (o : Operand) (ptr : Word) (t : State) :
    (advanced s m o ptr t).sp = t.sp := rfl
@[simp] theorem advanced_p (s : State) (m : Mnemonic) (o : Operand) (ptr : Word) (t : State) :
    (advanced s m o ptr t).p = t.p := rfl
@[simp] theorem advanced_pc (s : State) (m : Mnemonic) (o : Operand) (ptr : Word) (t : State) :
    (advanced s m o ptr t).pc = nextPC s o := rfl
@[simp] theorem advanced_cyc (s : State) (m : Mnemonic) (o : Operand) (ptr : Word) (t : State) :
    (advanced s m o ptr t).cyc = t.cyc + pageCost s m o ptr := rfl
@[simp] theorem advanced_halted (s : State) (m : Mnemonic) (o : Operand) (ptr : Word) (t : State) :
    (advanced s m o ptr t).halted = t.halted := rfl
@[simp] theorem advanced_fault (s : State) (m : Mnemonic) (o : Operand) (ptr : Word) (t : State) :
    (advanced s m o ptr t).fault = t.fault := rfl
@[simp] theorem advanced_faultAddr (s : State) (m : Mnemonic) (o : Operand) (ptr : Word) (t : State) :
    (advanced s m o ptr t).faultAddr = t.faultAddr := rfl
@[simp] theorem advanced_mem (s : State) (m : Mnemonic) (o : Operand) (ptr : Word) (t : State) :
    (advanced s m o ptr t).mem = t.mem := rfl
@[simp] theorem advanced_cfg (s : State) (m : Mnemonic) (o : Operand) (ptr : Word) (t : State) :
    (advanced s m o ptr t).cfg = t.cfg := rfl
@[simp] theorem advanced_devLog (s : State) (m : Mnemonic) (o : Operand) (ptr : Word) (t : State) :
    (advanced s m o ptr t).devLog = t.devLog := rfl
@[simp] theorem advanced_bus (s : State) (m : Mnemonic) (o : Operand) (ptr : Word) (t : State) :
    (advanced s m o ptr t).bus = t.bus := rfl

/-! ### `haltedBy` -/

@[simp] theorem haltedBy_a (s : State) (f : Fault) (a : Word) (t : State) : (haltedBy s f a t).a = s.a := rfl
@[simp] theorem haltedBy_x (s : State) (f : Fault) (a : Word) (t : State) : (haltedBy s f a t).x = s.x := rfl
@[simp] theorem haltedBy_y (s : State) (f : Fault) (a : Word) (t : State) : (haltedBy s f a t).y = s.y := rfl
@[simp] theorem haltedBy_sp (s : State) (f : Fault) (a : Word) (t : State) : (haltedBy s f a t).sp = s.sp := rfl
@[simp] theorem haltedBy_p (s : State) (f : Fault) (a : Word) (t : State) : (haltedBy s f a t).p = s.p := rfl
@[simp] theorem haltedBy_pc (s : State) (f : Fault) (a : Word) (t : State) : (haltedBy s f a t).pc = s.pc := rfl
@[simp] theorem haltedBy_cyc (s : State) (f : Fault) (a : Word) (t : State) : (haltedBy s f a t).cyc = s.cyc := rfl
@[simp] theorem haltedBy_halted (s : State) (f : Fault) (a : Word) (t : State) : (haltedBy s f a t).halted = true := rfl
@[simp] theorem haltedBy_fault (s : State) (f : Fault) (a : Word) (t : State) : (haltedBy s f a t).fault = some f := rfl
@[simp] theorem haltedBy_faultAddr (s : State) (f : Fault) (a : Word) (t : State) : (haltedBy s f a t).faultAddr = a := rfl
@[simp] theorem haltedBy_mem (s : State) (f : Fault) (a : Word) (t : State) : (haltedBy s f a t).mem = s.mem := rfl
@[simp] theorem haltedBy_cfg (s : State) (f : Fault) (a : Word) (t : State) : (haltedBy s f a t).cfg = s.cfg := rfl
@[simp] theorem haltedBy_devLog (s : State) (f : Fault) (a : Word) (t : State) : (haltedBy s f a t).devLog = t.devLog := rfl
@[simp] theorem haltedBy_bus (s : State) (f : Fault) (a : Word) (t : State) : (haltedBy s f a t).bus = t.bus := rfl

end Sys2Proof.Machine
end

