-- ==== Sys2Proof/Laws/Memory.lean ====
section
/-! SUPPORT. Memory as a list of cells: reading after writing, and the canonical form that every operation keeps. -/

namespace Sys2Proof.Machine

@[simp] theorem Memory.get_nil (a : Nat) : Memory.get [] a = unlistedByte := rfl

theorem Memory.wfFrom_mono {lo hi : Nat} (h : lo ≤ hi) : ∀ {m : List Host.Cell}, Memory.wfFrom hi m = true → Memory.wfFrom lo m = true
  | [], _ => rfl
  | (k, v) :: t, hm => by
    simp only [Memory.wfFrom, Bool.and_eq_true, decide_eq_true_eq] at hm ⊢
    exact ⟨⟨⟨by omega, hm.1.1.2⟩, hm.1.2⟩, hm.2⟩

/-- Below the bound of a canonical list nothing is listed. -/
theorem Memory.get_below {a : Nat} : ∀ {lo : Nat} {m : List Host.Cell}, Memory.wfFrom lo m = true → a < lo →
    Memory.get m a = unlistedByte
  | _, [], _, _ => rfl
  | lo, (k, v) :: t, hm, ha => by
    simp only [Memory.wfFrom, Bool.and_eq_true, decide_eq_true_eq] at hm
    have hk : k ≠ a := by omega
    simp only [Memory.get, hk, if_false]
    exact Memory.get_below hm.2 (by omega)

theorem Memory.get_cons {a b : Nat} {v : Byte} {t : List Host.Cell} (hb : a = b → Memory.get t a = unlistedByte) :
    Memory.get (Memory.cons a v t) b = if a = b then v else Memory.get t b := by
  unfold Memory.cons
  split
  · split
    · subst_vars; exact hb rfl
    · rfl
  · rfl

/-- Reading back what was stored, in a canonical memory. -/
theorem Memory.get_set_same {a : Nat} {v : Byte} : ∀ {lo : Nat} {m : List Host.Cell}, Memory.wfFrom lo m = true →
    Memory.get (Memory.set m a v) a = v
  | _, [], _ => by simp only [Memory.set]; rw [Memory.get_cons (fun _ => rfl)]; simp
  | lo, (k, w) :: t, hm => by
    simp only [Memory.wfFrom, Bool.and_eq_true, decide_eq_true_eq] at hm
    simp only [Memory.set]
    split
    · rename_i hk
      have : k ≠ a := by omega
      simp only [Memory.get, this, if_false]
      exact Memory.get_set_same hm.2
    · split
      · rw [Memory.get_cons (fun _ => Memory.get_below hm.2 (by omega))]; simp
      · rename_i h1 h2
        rw [Memory.get_cons (fun _ => ?_)]
        · simp
        · have : k ≠ a := h2
          simp only [Memory.get, this, if_false]
          exact Memory.get_below hm.2 (by omega)

/-- A store leaves every other address alone. -/
theorem Memory.get_set_other {a b : Nat} {v : Byte} (h : a ≠ b) : ∀ (m : List Host.Cell),
    Memory.get (Memory.set m a v) b = Memory.get m b
  | [] => by simp only [Memory.set]; rw [Memory.get_cons (fun e => absurd e h)]; simp [h]
  | (k, w) :: t => by
    simp only [Memory.set]
    split
    · simp only [Memory.get]; split
      · rfl
      · exact Memory.get_set_other h t
    · split
      · subst_vars; rw [Memory.get_cons (fun e => absurd e h)]; simp [Memory.get, h]
      · rw [Memory.get_cons (fun e => absurd e h)]; simp [h]

theorem Memory.cons_wfFrom {lo a : Nat} {v : Byte} {t : List Host.Cell} (ha : lo ≤ a) (hb : a < 65536)
    (ht : Memory.wfFrom (a + 1) t = true) : Memory.wfFrom lo (Memory.cons a v t) = true := by
  unfold Memory.cons
  split
  · exact Memory.wfFrom_mono (by omega) ht
  · simp only [Memory.wfFrom, Bool.and_eq_true, decide_eq_true_eq]; exact ⟨⟨⟨ha, hb⟩, ‹_›⟩, ht⟩

theorem Memory.set_wfFrom {a : Nat} {v : Byte} (hb : a < 65536) : ∀ {lo : Nat} {m : List Host.Cell}, lo ≤ a →
    Memory.wfFrom lo m = true → Memory.wfFrom lo (Memory.set m a v) = true
  | _, [], hlo, _ => Memory.cons_wfFrom hlo hb rfl
  | lo, (k, w) :: t, hlo, hm => by
    simp only [Memory.wfFrom, Bool.and_eq_true, decide_eq_true_eq] at hm
    simp only [Memory.set]
    split
    · simp only [Memory.wfFrom, Bool.and_eq_true, decide_eq_true_eq]
      exact ⟨hm.1, Memory.set_wfFrom hb (by omega) hm.2⟩
    · split
      · subst_vars; exact Memory.cons_wfFrom hlo hb hm.2
      · refine Memory.cons_wfFrom hlo hb ?_
        simp only [Memory.wfFrom, Bool.and_eq_true, decide_eq_true_eq]
        exact ⟨⟨⟨by omega, hm.1.1.2⟩, hm.1.2⟩, hm.2⟩

/-- Storing a byte keeps the canonical form. -/
theorem Memory.set_wf {m : List Host.Cell} {a : Word} {v : Byte} (h : Memory.wf m = true) :
    Memory.wf (Memory.set m a.toNat v) = true := Memory.set_wfFrom a.isLt (Nat.zero_le _) h

/-- Laying bytes keeps the canonical form. -/
theorem layBytes_wf : ∀ (bs : List Byte) (a : Word) {m : List Host.Cell}, Memory.wf m = true →
    Memory.wf (layBytes m a bs) = true
  | [], _, _, h => h
  | _ :: bs, _, _, h => layBytes_wf bs _ (Memory.set_wf h)

theorem Memory.eq_of_get : ∀ {lo : Nat} {m n : List Host.Cell}, Memory.wfFrom lo m = true → Memory.wfFrom lo n = true →
    (∀ a, Memory.get m a = Memory.get n a) → m = n
  | _, [], [], _, _, _ => rfl
  | _, [], (k, v) :: t, _, hn, h => by
    simp only [Memory.wfFrom, Bool.and_eq_true, decide_eq_true_eq] at hn
    have := h k; simp [Memory.get] at this; exact absurd this.symm hn.1.2
  | _, (k, v) :: t, [], hm, _, h => by
    simp only [Memory.wfFrom, Bool.and_eq_true, decide_eq_true_eq] at hm
    have := h k; simp [Memory.get] at this; exact absurd this hm.1.2
  | lo, (k, v) :: t, (j, w) :: u, hm, hn, h => by
    simp only [Memory.wfFrom, Bool.and_eq_true, decide_eq_true_eq] at hm hn
    have hkj : k = j := by
      rcases Nat.lt_trichotomy k j with hlt | heq | hgt
      · have hk := h k
        have hne : j ≠ k := by omega
        rw [Memory.get, if_pos rfl, Memory.get, if_neg hne, Memory.get_below hn.2 (by omega)] at hk
        exact absurd hk hm.1.2
      · exact heq
      · have hj := h j
        have hne : k ≠ j := by omega
        rw [Memory.get, if_neg hne, Memory.get, if_pos rfl, Memory.get_below hm.2 (by omega)] at hj
        exact absurd hj.symm hn.1.2
    subst hkj
    have hv : v = w := by have := h k; simpa [Memory.get] using this
    subst hv
    rw [Memory.eq_of_get hm.2 hn.2]
    intro a
    by_cases ha : a < k + 1
    · rw [Memory.get_below hm.2 ha, Memory.get_below hn.2 ha]
    · have hne : k ≠ a := by omega
      have := h a
      rwa [Memory.get, if_neg hne, Memory.get, if_neg hne] at this

/-- Equal contents are equal data: the canonical form is one list for each contents. -/
theorem Memory.wf_ext {m n : List Host.Cell} (hm : Memory.wf m = true) (hn : Memory.wf n = true)
    (h : ∀ a, Memory.get m a = Memory.get n a) : m = n := Memory.eq_of_get hm hn h

end Sys2Proof.Machine
end

