-- ==== Sys2Proof/Laws/Ops.lean ====
section
/-! SUPPORT. What the shared operations can do: the memory port, the stack, and a composition of parts of a step. -/

namespace Sys2Proof.Machine

/-! ### `Res` -/

/-- The state a part of a step ends in, whether with a value or with a fault. -/
def Res.state {α : Type} : Res α → State
  | .ok _ s => s
  | .fail _ _ s => s

@[simp] theorem Res.state_ok {α : Type} (v : α) (s : State) : (Res.ok v s).state = s := rfl
@[simp] theorem Res.state_fail {α : Type} (f : Fault) (a : Word) (s : State) : (Res.fail f a s : Res α).state = s := rfl

section
variable {α β : Type}

@[simp] theorem Res.bind_ok (v : α) (s : State) (k : α → State → Res β) : (Res.ok v s).bind k = k v s := rfl
@[simp] theorem Res.bind_fail (f : Fault) (a : Word) (s : State) (k : α → State → Res β) :
    (Res.fail f a s).bind k = .fail f a s := rfl

theorem Res.bind_eq_ok {r : Res α} {k : α → State → Res β} {v : β} {t : State} :
    r.bind k = .ok v t ↔ ∃ u s, r = .ok u s ∧ k u s = .ok v t := by
  cases r with
  | ok u s =>
    rw [Res.bind_ok]
    exact ⟨fun h => ⟨u, s, rfl, h⟩, fun ⟨_, _, h1, h2⟩ => by cases h1; exact h2⟩
  | fail f a s => exact ⟨fun h => (nomatch h), fun ⟨_, _, h, _⟩ => (nomatch h)⟩

theorem Res.bind_eq_fail {r : Res α} {k : α → State → Res β} {f : Fault} {a : Word} {t : State} :
    r.bind k = .fail f a t ↔ r = .fail f a t ∨ ∃ u s, r = .ok u s ∧ k u s = .fail f a t := by
  cases r with
  | ok u s =>
    rw [Res.bind_ok]
    exact ⟨fun h => .inr ⟨u, s, rfl, h⟩, fun h => h.elim (fun e => nomatch e) fun ⟨_, _, h1, h2⟩ => by cases h1; exact h2⟩
  | fail f' a' s =>
    exact ⟨fun h => .inl (by rw [Res.bind_fail] at h; cases h; rfl), fun h => h.elim (fun e => by cases e; rfl) fun ⟨_, _, e, _⟩ => nomatch e⟩

end

/-! ### Reading: only memory and the map count -/

@[simp] theorem peek_setA (v : Byte) (s : State) (b : Word) : peek (s.setA v) b = peek s b := rfl
@[simp] theorem peek_setX (v : Byte) (s : State) (b : Word) : peek (s.setX v) b = peek s b := rfl
@[simp] theorem peek_setY (v : Byte) (s : State) (b : Word) : peek (s.setY v) b = peek s b := rfl
@[simp] theorem peek_setSP (v : Byte) (s : State) (b : Word) : peek (s.setSP v) b = peek s b := rfl
@[simp] theorem peek_setP (v : Byte) (s : State) (b : Word) : peek (s.setP v) b = peek s b := rfl
@[simp] theorem peek_setPC (w : Word) (s : State) (b : Word) : peek (s.setPC w) b = peek s b := rfl
@[simp] theorem peek_addCyc (n : Nat) (s : State) (b : Word) : peek (s.addCyc n) b = peek s b := rfl
@[simp] theorem peek_logRead (w : Word) (s : State) (b : Word) : peek (s.logRead w) b = peek s b := rfl
@[simp] theorem peek_clearBus (s : State) (b : Word) : peek (s.clearBus) b = peek s b := rfl
@[simp] theorem peek_updateA (v : Byte) (s : State) (b : Word) : peek (s.updateA v) b = peek s b := rfl
@[simp] theorem peek_updateX (v : Byte) (s : State) (b : Word) : peek (s.updateX v) b = peek s b := rfl
@[simp] theorem peek_updateY (v : Byte) (s : State) (b : Word) : peek (s.updateY v) b = peek s b := rfl
@[simp] theorem peek_takeFault (s₀ s : State) (f : Fault) (a b : Word) : peek (takeFault s₀ f a s) b = peek s b := rfl
@[simp] theorem peek_finish (m : Mnemonic) (c : Ctx) (s : State) (b : Word) : peek (finish m c s) b = peek s b := rfl

/-- What the port answers depends on the contents, the parameters and what the devices have seen, alone. -/
theorem portAnswer_congr {s t : State} (hm : s.mem = t.mem) (hc : s.cfg = t.cfg) (hd : s.devLog = t.devLog) (a : Word) :
    portAnswer s a = portAnswer t a := by
  unfold portAnswer; rw [hm, hc, hd]

@[simp] theorem portAnswer_setA (v : Byte) (s : State) (b : Word) : portAnswer (s.setA v) b = portAnswer s b := rfl
@[simp] theorem portAnswer_setX (v : Byte) (s : State) (b : Word) : portAnswer (s.setX v) b = portAnswer s b := rfl
@[simp] theorem portAnswer_setY (v : Byte) (s : State) (b : Word) : portAnswer (s.setY v) b = portAnswer s b := rfl
@[simp] theorem portAnswer_setSP (v : Byte) (s : State) (b : Word) : portAnswer (s.setSP v) b = portAnswer s b := rfl
@[simp] theorem portAnswer_setP (v : Byte) (s : State) (b : Word) : portAnswer (s.setP v) b = portAnswer s b := rfl
@[simp] theorem portAnswer_setPC (w : Word) (s : State) (b : Word) : portAnswer (s.setPC w) b = portAnswer s b := rfl
@[simp] theorem portAnswer_addCyc (n : Nat) (s : State) (b : Word) : portAnswer (s.addCyc n) b = portAnswer s b := rfl
@[simp] theorem portAnswer_clearBus (s : State) (b : Word) : portAnswer s.clearBus b = portAnswer s b := rfl

/-- Reading depends on the contents and the map alone. -/
theorem peek_congr {s t : State} (hm : s.mem = t.mem) (hc : s.cfg = t.cfg) (a : Word) : peek s a = peek t a := by
  unfold peek; rw [hm, hc]

/-! ### Answered reads -/

theorem sees_eq_some {s t : State} {a : Word} {v : Byte} :
    sees s a = some (v, t) ↔ portAnswer s a = some v ∧ t = s.logRead a := by
  unfold sees
  cases portAnswer s a with
  | none => exact ⟨fun h => (nomatch h), fun h => (nomatch h.1)⟩
  | some w =>
    simp only [Option.map_some, Option.some.injEq, Prod.mk.injEq]
    exact ⟨fun h => ⟨h.1, h.2.symm⟩, fun h => ⟨h.1, h.2.symm⟩⟩

/-- An answered read gives the byte and the state that `sees` says. -/
theorem readByte_of_sees {s t : State} {a : Word} {v : Byte} (h : sees s a = some (v, t)) : readByte a s = .ok v t := by
  obtain ⟨h1, rfl⟩ := sees_eq_some.mp h
  unfold readByte
  rw [h1]

/-- A read answered with ERR. -/
theorem readByte_of_none {s : State} {a : Word} (h : portAnswer s a = none) :
    readByte a s = .fail .memRead a (s.logRead a) := by
  unfold readByte
  rw [h]

/-- Where PC is makes no difference to a read. -/
theorem sees_setPC {s t : State} {a : Word} {v : Byte} (w : Word) (h : sees s a = some (v, t)) :
    sees (s.setPC w) a = some (v, t.setPC w) := by
  obtain ⟨h1, rfl⟩ := sees_eq_some.mp h
  exact sees_eq_some.mpr ⟨h1, rfl⟩

/-- Where SP is makes no difference to a read. -/
theorem sees_setSP {s t : State} {a : Word} {v : Byte} (w : Byte) (h : sees s a = some (v, t)) :
    sees (s.setSP w) a = some (v, t.setSP w) := by
  obtain ⟨h1, rfl⟩ := sees_eq_some.mp h
  exact sees_eq_some.mpr ⟨h1, rfl⟩

/-- What P is makes no difference to a read. -/
theorem sees_setP {s t : State} {a : Word} {v : Byte} (w : Byte) (h : sees s a = some (v, t)) :
    sees (s.setP w) a = some (v, t.setP w) := by
  obtain ⟨h1, rfl⟩ := sees_eq_some.mp h
  exact sees_eq_some.mpr ⟨h1, rfl⟩

/-- What an answered read leaves: the registers, CYC, the run state, contents and parameters. -/
theorem state_of_sees {s t : State} {a : Word} {v : Byte} (h : sees s a = some (v, t)) :
    t = { s with bus := t.bus, devLog := t.devLog } := by
  obtain ⟨-, rfl⟩ := sees_eq_some.mp h
  rfl

/-- Plain storage, and a read-only region, answer with what lies there. -/
theorem sees_of_stored {s : State} {a : Word} (h : kindAt s.cfg.map a = .plain ∨ kindAt s.cfg.map a = .readOnly) :
    sees s a = some (peek s a, s.logRead a) := by
  rw [sees_eq_some]
  unfold portAnswer peek
  rcases h with h | h <;> rw [h] <;> exact ⟨rfl, rfl⟩

theorem readByte_eq_ok {s t : State} {a : Word} {v : Byte} :
    readByte a s = .ok v t ↔ portAnswer s a = some v ∧ t = s.logRead a := by
  unfold readByte
  cases portAnswer s a with
  | some w => simp only [Res.ok.injEq, Option.some.injEq]; exact ⟨fun ⟨h1, h2⟩ => ⟨h1, h2.symm⟩, fun ⟨h1, h2⟩ => ⟨h1, h2.symm⟩⟩
  | none => simp

theorem readByte_eq_fail {s t : State} {a b : Word} {f : Fault} :
    readByte a s = .fail f b t ↔ portAnswer s a = none ∧ f = .memRead ∧ b = a ∧ t = s.logRead a := by
  unfold readByte
  cases portAnswer s a with
  | some w => simp
  | none => simp only [Res.fail.injEq, true_and]; exact ⟨fun ⟨h1, h2, h3⟩ => ⟨h1.symm, h2.symm, h3.symm⟩, fun ⟨h1, h2, h3⟩ => ⟨h1.symm, h2.symm, h3.symm⟩⟩

@[simp] theorem readByte_state (a : Word) (s : State) : (readByte a s).state = s.logRead a := by
  unfold readByte; split <;> rfl

/-! ### Writing -/

theorem writeByte_mem_wf {s : State} {a : Word} {v : Byte} (h : Memory.wf s.mem = true) :
    Memory.wf (writeByte a v s).mem = true := by
  simp only [writeByte_mem]
  split
  · exact Memory.set_wf h
  all_goals exact h

/-- A write changes no other address. -/
theorem peek_writeByte_other {s : State} {a b : Word} (v : Byte) (h : a ≠ b) : peek (writeByte a v s) b = peek s b := by
  have hn : a.toNat ≠ b.toNat := fun e => h (BitVec.eq_of_toNat_eq e)
  unfold peek
  simp only [writeByte_cfg, writeByte_mem]
  cases kindAt s.cfg.map a <;> simp [Memory.get_set_other hn]

/-- Plain storage gives back what was written. -/
theorem peek_writeByte_same {s : State} {a : Word} {v : Byte} (hw : Memory.wf s.mem = true)
    (hp : kindAt s.cfg.map a = .plain) : peek (writeByte a v s) a = v := by
  unfold peek
  simp only [writeByte_cfg, writeByte_mem, hp]
  exact Memory.get_set_same hw

/-- Where memory is not plain a write is discarded. -/
theorem writeByte_mem_of_not_plain {s : State} {a : Word} (v : Byte) (hp : kindAt s.cfg.map a ≠ .plain) :
    (writeByte a v s).mem = s.mem := by
  simp only [writeByte_mem]
  cases hk : kindAt s.cfg.map a <;> simp_all

/-- The stack byte's address as a sum (R24). -/
theorem stackAddr_eq (v : Byte) : stackAddr v = 0x0100 + zext16 v := by
  apply BitVec.eq_of_toNat_eq
  have := v.isLt
  rw [stackAddr, hiLo_toNat, BitVec.toNat_add, zext16_toNat]
  show 1 * 256 + v.toNat = (256 + v.toNat) % 65536
  omega

theorem stackAddr_inj {a b : Byte} : stackAddr a = stackAddr b ↔ a = b := by
  constructor
  · intro h
    have := congrArg lo8 h
    simpa [stackAddr] using this
  · rintro rfl; rfl

end Sys2Proof.Machine
end

