-- ==== Sys2Proof/Laws/Exec.lean ====
section
/-! SUPPORT. What an instruction can do, said once: every arm of `exec` is the driver `run` on a routine, and any
relation that the primitive updates keep is kept by every instruction (`exec_inversion`). -/

namespace Sys2Proof.Machine

/-- The routine of an instruction. -/
def routineOf : Instr → Ctx → State → Res Ctx
  | .adc _ => (addInto false)
  | .sbc _ => (addInto true)
  | .cmp _ => (readInto (compareWith State.a))
  | .cpx _ => (readInto (compareWith State.x))
  | .cpy _ => (readInto (compareWith State.y))
  | .and _ => (readInto fun m s => s.updateA (s.a &&& m))
  | .ora _ => (readInto fun m s => s.updateA (s.a ||| m))
  | .eor _ => (readInto fun m s => s.updateA (s.a ^^^ m))
  | .bit _ => (readInto fun m s => s.setP (bitFlags s.a m s.p))
  | .asl _ => (modify (fun _ m => (shiftLeft m).result) fun s m => shiftFlags (shiftLeft m) s.p)
  | .lsr _ => (modify (fun _ m => (shiftRight m).result) fun s m => shiftFlags (shiftRight m) s.p)
  | .rol _ => (modify (fun s m => (rotateLeft (flag .c s.p) m).result) fun s m => shiftFlags (rotateLeft (flag .c s.p) m) s.p)
  | .ror _ => (modify (fun s m => (rotateRight (flag .c s.p) m).result) fun s m => shiftFlags (rotateRight (flag .c s.p) m) s.p)
  | .inc _ => (modify (fun _ m => m + 1) fun s m => setNZ (m + 1) s.p)
  | .dec _ => (modify (fun _ m => m - 1) fun s m => setNZ (m - 1) s.p)
  | .inx => (update fun s => s.updateX (s.x + 1))
  | .iny => (update fun s => s.updateY (s.y + 1))
  | .dex => (update fun s => s.updateX (s.x - 1))
  | .dey => (update fun s => s.updateY (s.y - 1))
  | .lda _ => (readInto State.updateA)
  | .ldx _ => (readInto State.updateX)
  | .ldy _ => (readInto State.updateY)
  | .sta _ => (storeReg State.a)
  | .stx _ => (storeReg State.x)
  | .sty _ => (storeReg State.y)
  | .tax => (update fun s => s.updateX s.a)
  | .tay => (update fun s => s.updateY s.a)
  | .txa => (update fun s => s.updateA s.x)
  | .tya => (update fun s => s.updateA s.y)
  | .tsx => (update fun s => s.updateX s.sp)
  | .txs => (update fun s => s.setSP s.x)
  | .pha => (update fun s => push s.a s)
  | .php => (update fun s => push (s.p ||| s.cfg.pushMask) s)
  | .pla => (fun c s => (pull s).bind fun v s => .ok c (s.updateA v))
  | .plp => (fun c s => (pull s).bind fun v s => .ok c (s.setP v))
  | .jmp _ => (fun c s => .ok c (s.setPC c.ea))
  | .jsr _ => (callTo)
  | .rts => (returnFrom)
  | .bcc _ => (fun c s => branch (!flag .c s.p) c s)
  | .bcs _ => (fun c s => branch (flag .c s.p) c s)
  | .beq _ => (fun c s => branch (flag .z s.p) c s)
  | .bne _ => (fun c s => branch (!flag .z s.p) c s)
  | .bmi _ => (fun c s => branch (flag .n s.p) c s)
  | .bpl _ => (fun c s => branch (!flag .n s.p) c s)
  | .bvc _ => (fun c s => branch (!flag .v s.p) c s)
  | .bvs _ => (fun c s => branch (flag .v s.p) c s)
  | .clc => (update fun s => s.setP (setFlag .c false s.p))
  | .sec => (update fun s => s.setP (setFlag .c true s.p))
  | .cli => (update fun s => s.setP (setFlag .i false s.p))
  | .sei => (update fun s => s.setP (setFlag .i true s.p))
  | .cld => (update fun s => s.setP (setFlag .d false s.p))
  | .sed => (update fun s => s.setP (setFlag .d true s.p))
  | .clv => (update fun s => s.setP (setFlag .v false s.p))
  | .nop => (update id)
  | .dflt _ => (update id)
  | .brk => (breakTrap)
  | .rti => (breakReturn)

/-- Every arm of `exec` is one driver. -/
theorem exec_eq_run (i : Instr) (s : State) : exec i s = run i.mnemonic i.operand (routineOf i) s := by
  cases i <;> rfl

theorem exec_of_legal {i : Instr} (h : i.pairLegal = true) (s : State) :
    exec i s = match (resolve i.operand s).bind (routineOf i) with
      | .ok c t => .next (finish i.mnemonic c t)
      | .fail f a t => .next (takeFault s f a t) := by
  rw [exec_eq_run]
  exact if_pos h

theorem exec_of_illegal {i : Instr} (h : i.pairLegal = false) (s : State) : exec i s = .refused .illegalPair := by
  rw [exec_eq_run]
  exact if_neg (by simpa [Instr.pairLegal] using h)

/-- A relation between the state before and after that every primitive update keeps. -/
structure Closed (R : State → State → Prop) : Prop where
  refl : ∀ s, R s s
  trans : ∀ {s t u}, R s t → R t u → R s u
  setA : ∀ v s, R s (s.setA v)
  setX : ∀ v s, R s (s.setX v)
  setY : ∀ v s, R s (s.setY v)
  setSP : ∀ v s, R s (s.setSP v)
  setP : ∀ v s, R s (s.setP v)
  setPC : ∀ v s, R s (s.setPC v)
  addCyc : ∀ n s, R s (s.addCyc n)
  logRead : ∀ a s, R s (s.logRead a)
  writeByte : ∀ a v s, R s (writeByte a v s)

section
variable {R : State → State → Prop} (h : Closed R)
include h

theorem Closed.readByte (a : Word) (s : State) : R s (readByte a s).state := by
  rw [readByte_state]; exact h.logRead a s

theorem Closed.bind {α β : Type} {s : State} {r : Res α} {k : α → State → Res β} (hr : R s r.state)
    (hk : ∀ v t, R t (k v t).state) : R s (r.bind k).state := by
  cases r with
  | ok v t => exact h.trans hr (hk v t)
  | fail f a t => exact hr

theorem Closed.push (v : Byte) (s : State) : R s (push v s) := h.trans (h.writeByte _ _ _) (h.setSP _ _)

theorem Closed.pull (s : State) : R s (pull s).state := h.trans (h.setSP _ _) (h.readByte _ _)

theorem Closed.resolve (o : Operand) (s : State) : R s (resolve o s).state := by
  cases o with
  | indirectX b =>
    exact h.trans (h.setPC _ _) (h.bind (h.readByte _ _) fun _ _ => h.bind (h.readByte _ _) fun _ _ => h.refl _)
  | indirectY b =>
    exact h.trans (h.setPC _ _) (h.bind (h.readByte _ _) fun _ _ => h.bind (h.readByte _ _) fun _ _ => h.refl _)
  | indirect w =>
    exact h.trans (h.setPC _ _) (h.bind (h.readByte _ _) fun _ _ => h.bind (h.readByte _ _) fun _ _ => h.refl _)
  | _ => exact h.setPC _ _

theorem Closed.load (c : Ctx) (s : State) : R s (load c s).state := by
  unfold Machine.load
  split <;> first | exact h.readByte _ _ | exact h.refl _

theorem Closed.store (c : Ctx) (v : Byte) (s : State) : R s (store c v s) := by
  unfold Machine.store
  split <;> first | exact h.writeByte _ _ _ | exact h.setA _ _

theorem Closed.updateA (v : Byte) (s : State) : R s (s.updateA v) := h.trans (h.setA _ _) (h.setP _ _)
theorem Closed.updateX (v : Byte) (s : State) : R s (s.updateX v) := h.trans (h.setX _ _) (h.setP _ _)
theorem Closed.updateY (v : Byte) (s : State) : R s (s.updateY v) := h.trans (h.setY _ _) (h.setP _ _)

theorem Closed.readInto {f : Byte → State → State} (hf : ∀ v s, R s (f v s)) (c : Ctx) (s : State) :
    R s (readInto f c s).state := h.bind (h.load c s) fun v t => hf v t

theorem Closed.modify (f g : State → Byte → Byte) (c : Ctx) (s : State) : R s (modify f g c s).state :=
  h.bind (h.load c s) fun _ _ => h.trans (h.store _ _ _) (h.setP _ _)

theorem Closed.addInto (b : Bool) (c : Ctx) (s : State) : R s (addInto b c s).state := by
  refine h.bind ?_ fun _ _ => h.bind (h.load _ _) fun _ _ => h.trans (h.setA _ _) (h.setP _ _)
  unfold decimalCheck; split <;> exact h.refl _

theorem Closed.branch (b : Bool) (c : Ctx) (s : State) : R s (branch b c s).state := by
  unfold Machine.branch; split <;> exact h.refl _

theorem Closed.trapEntry (s : State) : R s (trapEntry s).state :=
  h.bind (h.readByte _ _) fun _ _ => h.bind (h.readByte _ _) fun _ _ =>
    h.trans (h.push _ _) (h.trans (h.push _ _) (h.trans (h.push _ _) (h.trans (h.setP _ _) (h.setPC _ _))))

theorem Closed.trapReturn (s : State) : R s (trapReturn s).state :=
  h.bind (h.pull _) fun _ _ => h.bind (h.trans (h.setP _ _) (h.pull _)) fun _ _ => h.bind (h.pull _) fun _ _ => h.setPC _ _

theorem Closed.breakTrap (c : Ctx) (s : State) : R s (breakTrap c s).state := by
  unfold Machine.breakTrap
  split
  · exact h.refl _
  · exact h.bind (h.trapEntry _) fun _ _ => h.refl _

theorem Closed.breakReturn (c : Ctx) (s : State) : R s (breakReturn c s).state := by
  unfold Machine.breakReturn
  split
  · exact h.refl _
  · exact h.bind (h.trapReturn _) fun _ _ => h.refl _

theorem Closed.routineOf (i : Instr) (c : Ctx) (s : State) : R s (routineOf i c s).state := by
  cases i with
  | adc o => exact h.addInto _ _ _
  | sbc o => exact h.addInto _ _ _
  | cmp o => exact h.readInto (fun _ _ => h.setP _ _) _ _
  | cpx o => exact h.readInto (fun _ _ => h.setP _ _) _ _
  | cpy o => exact h.readInto (fun _ _ => h.setP _ _) _ _
  | and o => exact h.readInto (fun _ _ => h.updateA _ _) _ _
  | ora o => exact h.readInto (fun _ _ => h.updateA _ _) _ _
  | eor o => exact h.readInto (fun _ _ => h.updateA _ _) _ _
  | bit o => exact h.readInto (fun _ _ => h.setP _ _) _ _
  | asl o => exact h.modify _ _ _ _
  | lsr o => exact h.modify _ _ _ _
  | rol o => exact h.modify _ _ _ _
  | ror o => exact h.modify _ _ _ _
  | inc o => exact h.modify _ _ _ _
  | dec o => exact h.modify _ _ _ _
  | inx => exact h.updateX _ _
  | iny => exact h.updateY _ _
  | dex => exact h.updateX _ _
  | dey => exact h.updateY _ _
  | lda o => exact h.readInto h.updateA _ _
  | ldx o => exact h.readInto h.updateX _ _
  | ldy o => exact h.readInto h.updateY _ _
  | sta o => exact h.store _ _ _
  | stx o => exact h.store _ _ _
  | sty o => exact h.store _ _ _
  | tax => exact h.updateX _ _
  | tay => exact h.updateY _ _
  | txa => exact h.updateA _ _
  | tya => exact h.updateA _ _
  | tsx => exact h.updateX _ _
  | txs => exact h.setSP _ _
  | pha => exact h.push _ _
  | php => exact h.push _ _
  | pla => exact h.bind (h.pull _) fun _ _ => h.updateA _ _
  | plp => exact h.bind (h.pull _) fun _ _ => h.setP _ _
  | jmp o => exact h.setPC _ _
  | jsr w => exact h.trans (h.push _ _) (h.trans (h.push _ _) (h.setPC _ _))
  | rts => exact h.bind (h.pull _) fun _ _ => h.bind (h.pull _) fun _ _ => h.setPC _ _
  | bcc _ => exact h.branch _ _ _
  | bcs _ => exact h.branch _ _ _
  | beq _ => exact h.branch _ _ _
  | bne _ => exact h.branch _ _ _
  | bmi _ => exact h.branch _ _ _
  | bpl _ => exact h.branch _ _ _
  | bvc _ => exact h.branch _ _ _
  | bvs _ => exact h.branch _ _ _
  | clc => exact h.setP _ _
  | sec => exact h.setP _ _
  | cli => exact h.setP _ _
  | sei => exact h.setP _ _
  | cld => exact h.setP _ _
  | sed => exact h.setP _ _
  | clv => exact h.setP _ _
  | nop => exact h.refl _
  | brk => exact h.breakTrap _ _
  | rti => exact h.breakReturn _ _
  | dflt _ => exact h.refl _

theorem Closed.readBytes (n : Nat) (a : Word) (s : State) : R s (readBytes n a s).state := by
  induction n generalizing a s with
  | zero => exact h.refl _
  | succ n ih => exact h.bind (h.readByte _ _) fun _ _ => h.bind (ih _ _) fun _ _ => h.refl _

theorem Closed.fetch (s : State) : R s (fetch s).state := by
  refine h.bind (h.readByte _ _) fun _ t => ?_
  split
  · exact h.refl _
  · refine h.bind (h.readBytes _ _ _) fun _ _ => ?_
    split <;> exact h.refl _

/-- What an instruction can do: its primitive updates from the state before, and after them perhaps a fault taken, which
rolls back to that state. -/
theorem exec_inversion {i : Instr} {s t : State} (he : exec i s = .next t) :
    R s t ∨ ∃ f a u, R s u ∧ t = takeFault s f a u := by
  by_cases hl : i.pairLegal = true
  · rw [exec_of_legal hl] at he
    have hR : R s ((resolve i.operand s).bind (routineOf i)).state :=
      h.bind (h.resolve _ _) fun c t => h.routineOf i c t
    split at he
    · rename_i c u hb
      rw [hb] at hR
      cases he
      exact .inl (h.trans hR (h.trans (h.setPC _ _) (h.addCyc _ _)))
    · rename_i f a u hb
      rw [hb] at hR
      cases he
      exact .inr ⟨f, a, u, hR, rfl⟩
  · rw [exec_of_illegal (by simpa using hl)] at he
    cases he

/-- What a step from a state that is not halted can do, by its primitive updates. -/
theorem runStep_inversion {s t : State} (hs : runStep s = .next t) :
    R s.clearBus t ∨ ∃ f a u v, R s.clearBus u ∧ R u v ∧ t = takeFault u f a v := by
  unfold runStep at hs
  have hf := h.fetch s.clearBus
  split at hs
  · rename_i e i u hb
    rw [hb] at hf
    unfold afterExec at hs
    split at hs
    · rename_i w hw
      cases hs
      unfold chargeBase
      rcases exec_inversion h hw with h1 | ⟨f, a, v, h2, rfl⟩
      · left
        refine h.trans hf (h.trans h1 ?_)
        split
        · exact h.refl _
        · exact h.addCyc _ _
      · right; exact ⟨f, a, u, v, hf, h2, rfl⟩
    · cases hs
    · cases hs
  · cases hs
  · rename_i f a u hb
    rw [hb] at hf
    cases hs
    right
    exact ⟨f, a, s.clearBus, u, h.refl _, hf, rfl⟩

end

/-! ### When a step runs -/

theorem withTable_of_admitted {s : State} (h : admitted s.cfg.table = true) (answer : Answer) :
    withTable s answer = answer := if_pos h

theorem withTable_of_not_admitted {s : State} (h : admitted s.cfg.table = false) (answer : Answer) :
    withTable s answer = .refused .tableNotAdmitted := if_neg (by rw [h]; decide)

theorem step_of_running {s : State} (h : admitted s.cfg.table = true) (hh : s.halted = false) : step s = runStep s :=
  (withTable_of_admitted h _).trans (if_neg (by rw [hh]; decide))

theorem step_of_halted {s : State} (h : admitted s.cfg.table = true) (hh : s.halted = true) : step s = .next s :=
  (withTable_of_admitted h _).trans (if_pos hh)

theorem step_of_not_admitted {s : State} (h : admitted s.cfg.table = false) : step s = .refused .tableNotAdmitted :=
  withTable_of_not_admitted h _

/-- What a step that answers a next state has done: the table is admitted, and it did nothing or ran an instruction. -/
theorem step_eq_next {s t : State} (h : step s = .next t) :
    admitted s.cfg.table = true ∧ (s.halted = true ∧ t = s ∨ s.halted = false ∧ runStep s = .next t) := by
  cases ha : admitted s.cfg.table with
  | false => rw [step_of_not_admitted ha] at h; cases h
  | true =>
    refine ⟨rfl, ?_⟩
    cases hh : s.halted with
    | true => rw [step_of_halted ha hh] at h; cases h; exact .inl ⟨rfl, rfl⟩
    | false => rw [step_of_running ha hh] at h; exact .inr ⟨rfl, h⟩

end Sys2Proof.Machine
end

