-- ==== Sys2Proof/Laws/Flags.lean ====
section
/-! SUPPORT. The status byte bit by bit. -/

namespace Sys2Proof.Machine

theorem Flag.bit_lt (f : Flag) : f.bit < 8 := by cases f <;> decide

/-- One bit of P after a flag is written. -/
theorem setFlag_bit (f : Flag) (b : Bool) (p : Byte) {k : Nat} (hk : k < 8) :
    (setFlag f b p).getLsbD k = if k = f.bit then b else p.getLsbD k := by
  have : k = 0 ∨ k = 1 ∨ k = 2 ∨ k = 3 ∨ k = 4 ∨ k = 5 ∨ k = 6 ∨ k = 7 := by omega
  rcases this with h | h | h | h | h | h | h | h <;> subst h <;> cases f <;> cases b <;> simp [setFlag, Flag.bit]

/-- A flag read after a flag is written. -/
theorem flag_setFlag (f g : Flag) (b : Bool) (p : Byte) : flag g (setFlag f b p) = if g = f then b else flag g p := by
  unfold flag
  rw [setFlag_bit f b p g.bit_lt]
  cases f <;> cases g <;> rfl

/-- Two status bytes with the same eight bits are equal. -/
theorem status_ext {p q : Byte} (h : ∀ k, k < 8 → p.getLsbD k = q.getLsbD k) : p = q :=
  BitVec.eq_of_getLsbD_eq fun i hi => h i hi

end Sys2Proof.Machine
end

