-- ==== Sys2Proof/Laws/Operands.lean ====
section
/-! SUPPORT. The resolvers, the operand helpers and the driver where every read is answered, by storage or by a device:
what the formulas of Safety.lean say is what they do. -/

namespace Sys2Proof.Machine

/-- The decode context a resolver leaves where its reads gave the pointer (R40). -/
def ctxOf (s : State) (o : Operand) (ptr : Word) : Ctx where
  mode := o.mode
  opAddr := s.pc
  opnd := match o with
    | .immediate b => b
    | _ => 0
  ea := effAddr s o ptr
  off := match o with
    | .relative off => off
    | _ => 0
  pcCross := crosses s o ptr

/-- The state at the start of a routine: PC is past the instruction and the reads so far led to `t`. -/
def resolved (s : State) (o : Operand) (t : State) : State := t.setPC (nextPC s o)

@[simp] theorem resolved_cfg (s : State) (o : Operand) (t : State) : (resolved s o t).cfg = t.cfg := rfl

section
variable (s : State) (o : Operand) (ptr : Word)

@[simp] theorem ctxOf_taken : (ctxOf s o ptr).taken = false := rfl
@[simp] theorem ctxOf_extra : (ctxOf s o ptr).extra = 0 := rfl
@[simp] theorem ctxOf_mode : (ctxOf s o ptr).mode = o.mode := rfl
@[simp] theorem ctxOf_opAddr : (ctxOf s o ptr).opAddr = s.pc := rfl
@[simp] theorem ctxOf_ea : (ctxOf s o ptr).ea = effAddr s o ptr := rfl
@[simp] theorem ctxOf_pcCross : (ctxOf s o ptr).pcCross = crosses s o ptr := rfl

end

theorem seesPair_eq_some {s u : State} {lo hi w : Word} :
    seesPair s lo hi = some (w, u) ↔
      ∃ l h t, sees s lo = some (l, t) ∧ sees t hi = some (h, u) ∧ w = hiLo h l := by
  unfold seesPair
  constructor
  · intro h
    split at h
    · cases h
    · rename_i l t h1
      split at h
      · cases h
      · rename_i b v h2
        cases h
        exact ⟨l, b, t, h1, h2, rfl⟩
  · rintro ⟨l, h, t, h1, h2, rfl⟩
    rw [h1]
    simp only [h2]

/-- Two reads of a resolver, answered. The second address is computed after the first read, from parts of the state that a
read leaves alone. -/
theorem readPair_of_sees {s t u : State} {a b : Word} {l h : Byte} {next : State → Word} (h1 : sees s a = some (l, t))
    (h2 : sees t b = some (h, u)) (hn : next t = b) {α : Type} (k : Byte → Byte → State → Res α) :
    ((readByte a s).bind fun lo s => (readByte (next s) s).bind fun hi s => k lo hi s) = k l h u := by
  rw [readByte_of_sees h1, Res.bind_ok, hn, readByte_of_sees h2, Res.bind_ok]

/-- A resolver whose reads are answered. -/
theorem resolve_of_pointer {s t : State} {o : Operand} {ptr : Word} (h : pointer s o = some (ptr, t)) :
    resolve o s = .ok (ctxOf s o ptr) (resolved s o t) := by
  cases o with
  | indirectX b =>
    obtain ⟨l, hb, v, h1, h2, rfl⟩ := seesPair_eq_some.mp h
    have hv := state_of_sees h1
    exact readPair_of_sees (next := fun t => ptrNext t.cfg.zpWrap (b + t.x))
      (sees_setPC (nextPC s (.indirectX b)) h1) (sees_setPC _ h2) (by rw [hv]; rfl)
      fun lo hi t => .ok ({ mode := .indirectX, opAddr := s.pc, ea := hiLo hi lo } : Ctx) t
  | indirectY b =>
    obtain ⟨l, hb, v, h1, h2, rfl⟩ := seesPair_eq_some.mp h
    have hv := state_of_sees h1
    have hu := state_of_sees h2
    refine (readPair_of_sees (next := fun t => ptrNext t.cfg.zpWrap b)
      (sees_setPC (nextPC s (.indirectY b)) h1) (sees_setPC _ h2) (by rw [hv]; rfl)
      fun lo hi t => .ok ({ mode := .indirectY, opAddr := s.pc, ea := hiLo hi lo + zext16 t.y,
                            pcCross := decide (0xFF < lo.toNat + t.y.toNat) } : Ctx) t).trans ?_
    have hy : t.y = s.y := by rw [hu, hv]
    simp [ctxOf, effAddr, crosses, resolved, Operand.mode, hy]
  | indirect w =>
    obtain ⟨l, hb, v, h1, h2, rfl⟩ := seesPair_eq_some.mp h
    exact readPair_of_sees (next := fun _ => indirectNext w)
      (sees_setPC (nextPC s (.indirect w)) h1) (sees_setPC _ h2) rfl
      fun lo hi t => .ok ({ mode := .indirect, opAddr := s.pc, ea := hiLo hi lo } : Ctx) t
  | _ => cases h; rfl

/-- What a resolver's answered reads leave as it was. -/
theorem state_of_pointer {s t : State} {o : Operand} {ptr : Word} (h : pointer s o = some (ptr, t)) :
    t = { s with bus := t.bus, devLog := t.devLog } := by
  have key : ∀ {lo hi : Word}, seesPair s lo hi = some (ptr, t) → t = { s with bus := t.bus, devLog := t.devLog } := by
    intro lo hi h
    obtain ⟨_, _, v, h1, h2, -⟩ := seesPair_eq_some.mp h
    have hv := state_of_sees h1
    rw [state_of_sees h2, hv]
  cases o with
  | indirectX _ => exact key h
  | indirectY _ => exact key h
  | indirect _ => exact key h
  | _ => cases h; rfl

/-- `Load()` where its read is answered. -/
theorem load_of_operandSeen {s t u : State} {o : Operand} {ptr : Word} {m : Byte} (hp : pointer s o = some (ptr, t))
    (h : operandSeen s o ptr t = some (m, u)) :
    load (ctxOf s o ptr) (resolved s o t) = .ok m (resolved s o u) := by
  cases o with
  | implicit => cases h
  | relative _ => cases h
  | indirect _ => cases h
  | accumulator => cases hp; cases h; rfl
  | immediate b => cases h; rfl
  | _ => exact readByte_of_sees (sees_setPC _ h)

/-- What answered reads up to the operand leave as it was. -/
theorem state_of_operandSeen {s t u : State} {o : Operand} {ptr : Word} {m : Byte} (hp : pointer s o = some (ptr, t))
    (h : operandSeen s o ptr t = some (m, u)) : u = { s with bus := u.bus, devLog := u.devLog } := by
  have ht := state_of_pointer hp
  have key : ∀ {a : Word}, sees t a = some (m, u) → u = { s with bus := u.bus, devLog := u.devLog } := by
    intro a h
    rw [state_of_sees h, ht]
  cases o with
  | implicit => cases h
  | relative _ => cases h
  | indirect _ => cases h
  | accumulator => cases h; exact ht
  | immediate b => cases h; exact ht
  | _ => exact key h

theorem cfg_of_pointer {s t : State} {o : Operand} {ptr : Word} (h : pointer s o = some (ptr, t)) : t.cfg = s.cfg := by
  have := congrArg State.cfg (state_of_pointer h)
  exact this

theorem cfg_of_operandSeen {s t u : State} {o : Operand} {ptr : Word} {m : Byte} (hp : pointer s o = some (ptr, t))
    (h : operandSeen s o ptr t = some (m, u)) : u.cfg = s.cfg := by
  have := congrArg State.cfg (state_of_operandSeen hp h)
  exact this

/-- The mnemonics that load their operand (R120). -/
def loadMnemonics : List Mnemonic :=
  [.ADC, .SBC, .CMP, .CPX, .CPY, .AND, .ORA, .EOR, .BIT, .LDA, .LDX, .LDY, .ASL, .LSR, .ROL, .ROR, .INC, .DEC]

/-- The mnemonics whose operand is always a byte of memory (R213 to R215, R184, R185, R163). -/
def memoryMnemonics : List Mnemonic := [.STA, .STX, .STY, .INC, .DEC, .BIT]

theorem not_legal_of_mem {l : List Mnemonic} {md : Mode} (hall : (l.all fun m => !legalPair m md) = true) {m : Mnemonic}
    (hm : m ∈ l) : legalPair m md = false := by
  have := List.all_eq_true.mp hall m hm
  simpa using this

/-- A legal pair of a memory mnemonic has its operand in memory. -/
theorem inMemory_of_legal {m : Mnemonic} {o : Operand} (hm : m ∈ memoryMnemonics) (h : legalPair m o.mode = true) :
    inMemory o = true := by
  cases o with
  | implicit => change legalPair m .implicit = true at h; rw [not_legal_of_mem (by decide) hm] at h; cases h
  | accumulator => change legalPair m .accumulator = true at h; rw [not_legal_of_mem (by decide) hm] at h; cases h
  | immediate b => change legalPair m .immediate = true at h; rw [not_legal_of_mem (by decide) hm] at h; cases h
  | relative b => change legalPair m .relative = true at h; rw [not_legal_of_mem (by decide) hm] at h; cases h
  | indirect b => change legalPair m .indirect = true at h; rw [not_legal_of_mem (by decide) hm] at h; cases h
  | _ => rfl

/-- In a memory mode `Store` is one write at the effective address. -/
theorem store_of_inMemory {o : Operand} (h : inMemory o = true) (s : State) (ptr : Word) (v : Byte) (t : State) :
    store (ctxOf s o ptr) v t = writeByte (effAddr s o ptr) v t := by
  cases o <;> first | rfl | cases h

theorem store_cfg (c : Ctx) (v : Byte) (s : State) : (store c v s).cfg = s.cfg := by
  unfold store
  split <;> rfl

/-- What follows a resolver and a load whose reads are answered. -/
theorem bind_load_of_operandSeen {s t u : State} {o : Operand} {ptr : Word} {m : Byte} (hp : pointer s o = some (ptr, t))
    (h : operandSeen s o ptr t = some (m, u)) {α : Type} (k : Ctx → Byte → State → Res α) :
    ((resolve o s).bind fun c t => (load c t).bind (k c)) = k (ctxOf s o ptr) m (resolved s o u) := by
  rw [resolve_of_pointer hp, Res.bind_ok, load_of_operandSeen hp h, Res.bind_ok]

theorem canCross_of_crosses {s : State} {o : Operand} {ptr : Word} (h : crosses s o ptr = true) :
    canCross o.mode = true := by
  cases o <;> simp_all [crosses, canCross, Operand.mode]

theorem penalty_ctxOf (s : State) (m : Mnemonic) (o : Operand) (ptr : Word) :
    penalty s.cfg.penaltyClass m (ctxOf s o ptr) = pageCost s m o ptr := by
  unfold penalty pageCost bitNat
  by_cases hc : crosses s o ptr = true
  · simp [canCross_of_crosses hc, hc]
  · simp [hc]

/-- The end of an instruction that is no branch: PC stays where its effect left it, and the penalty is counted. -/
theorem finish_ctxOf {s t : State} (hc : t.cfg = s.cfg) (m : Mnemonic) (o : Operand) (ptr : Word) :
    finish m (ctxOf s o ptr) t = t.addCyc (pageCost s m o ptr) := by
  have hp := penalty_ctxOf s m o ptr
  unfold finish
  rw [hc, hp]
  simp [branchCycles, State.setPC, State.addCyc]

/-- The end of an instruction that set no flag of its context: nothing is added. -/
theorem finish_plain {c : Ctx} (hx : c.extra = 0) (hp : c.pcCross = false) (ht : c.taken = false) (m : Mnemonic)
    (t : State) : finish m c t = t := by
  simp [finish, penalty, branchCycles, bitNat, hx, hp, ht, State.setPC, State.addCyc]

/-- The driver on a legal pair. -/
theorem run_of_legal {m : Mnemonic} {o : Operand} (h : legalPair m o.mode = true) (r : Ctx → State → Res Ctx) (s : State) :
    run m o r s = match (resolve o s).bind r with
      | .ok c t => .next (finish m c t)
      | .fail f a t => .next (takeFault s f a t) := if_pos h

/-- A fault taken after reads that left everything else as it was. -/
theorem takeFault_eq_haltedBy {s t : State} (h : t.mem = s.mem) (hc : t.cfg = s.cfg) (f : Fault) (a : Word) :
    takeFault s f a t = haltedBy s f a t := by
  unfold takeFault haltedBy
  rw [h, hc]

section
variable {mn : Mnemonic} {o : Operand} {s t u : State} {ptr : Word} {m : Byte}

/-- An instruction that loads its operand and then updates the state, where its reads are answered. -/
theorem run_readInto (hl : legalPair mn o.mode = true) (hp : pointer s o = some (ptr, t))
    (h : operandSeen s o ptr t = some (m, u)) (f : Byte → State → State) (hf : ∀ v t, (f v t).cfg = t.cfg) :
    run mn o (readInto f) s = .next ((f m (resolved s o u)).addCyc (pageCost s mn o ptr)) := by
  have hb : (resolve o s).bind (readInto f) = .ok (ctxOf s o ptr) (f m (resolved s o u)) :=
    bind_load_of_operandSeen hp h fun c v t => .ok c (f v t)
  have hc : (resolved s o u).cfg = s.cfg := (resolved_cfg s o u).trans (cfg_of_operandSeen hp h)
  rw [run_of_legal hl, hb]
  exact congrArg Host.Outcome.next (finish_ctxOf ((hf _ _).trans hc) mn o ptr)

/-- A read-modify-write instruction, where its reads are answered. -/
theorem run_modify (hl : legalPair mn o.mode = true) (hp : pointer s o = some (ptr, t))
    (h : operandSeen s o ptr t = some (m, u)) (f g : State → Byte → Byte) :
    run mn o (modify f g) s =
      .next (((store (ctxOf s o ptr) (f (resolved s o u) m) (resolved s o u)).setP (g (resolved s o u) m)).addCyc
        (pageCost s mn o ptr)) := by
  have hb : (resolve o s).bind (modify f g) = .ok (ctxOf s o ptr)
      ((store (ctxOf s o ptr) (f (resolved s o u) m) (resolved s o u)).setP (g (resolved s o u) m)) :=
    bind_load_of_operandSeen hp h fun c v t => .ok c ((store c (f t v) t).setP (g t v))
  have hc : (resolved s o u).cfg = s.cfg := (resolved_cfg s o u).trans (cfg_of_operandSeen hp h)
  rw [run_of_legal hl, hb]
  exact congrArg Host.Outcome.next (finish_ctxOf (((setP_cfg _ _).trans (store_cfg _ _ _)).trans hc) mn o ptr)

/-- A store, where its pointer reads are answered. -/
theorem run_storeReg (hl : legalPair mn o.mode = true) (hp : pointer s o = some (ptr, t)) (reg : State → Byte) :
    run mn o (storeReg reg) s =
      .next ((store (ctxOf s o ptr) (reg (resolved s o t)) (resolved s o t)).addCyc (pageCost s mn o ptr)) := by
  have hb : (resolve o s).bind (storeReg reg) = .ok (ctxOf s o ptr)
      (store (ctxOf s o ptr) (reg (resolved s o t)) (resolved s o t)) := by
    rw [resolve_of_pointer hp]; rfl
  have hc : (resolved s o t).cfg = s.cfg := (resolved_cfg s o t).trans (cfg_of_pointer hp)
  rw [run_of_legal hl, hb]
  exact congrArg Host.Outcome.next (finish_ctxOf ((store_cfg _ _ _).trans hc) mn o ptr)

end

/-- An instruction of Implicit mode: its routine alone. -/
theorem run_implicit_of {m : Mnemonic} (hl : legalPair m .implicit = true) (r : Ctx → State → Res Ctx) (s : State) :
    run m .implicit r s = match r { mode := .implicit, opAddr := s.pc } (s.setPC (s.pc + 1)) with
      | .ok c t => .next (finish m c t)
      | .fail f a t => .next (takeFault s f a t) := run_of_legal hl r s

/-- An instruction of Implicit mode whose routine only updates the state. -/
theorem run_implicit {m : Mnemonic} (hl : legalPair m .implicit = true) (f : State → State) (s : State) :
    run m .implicit (update f) s = .next (f (s.setPC (s.pc + 1))) := by
  rw [run_of_legal hl]
  exact congrArg Host.Outcome.next (finish_plain rfl rfl rfl _ _)

/-- A pull that is answered. -/
theorem pull_of_sees {s t : State} {v : Byte} (h : sees s (stackAddr (s.sp + 1)) = some (v, t)) :
    pull s = .ok v (t.setSP (s.sp + 1)) :=
  readByte_of_sees (sees_setSP (s.sp + 1) h)

/-- A pull that is answered with ERR. -/
theorem pull_of_none {s : State} (h : portAnswer s (stackAddr (s.sp + 1)) = none) :
    pull s = .fail .memRead (stackAddr (s.sp + 1)) ((s.setSP (s.sp + 1)).logRead (stackAddr (s.sp + 1))) :=
  readByte_of_none (s := s.setSP (s.sp + 1)) h

end Sys2Proof.Machine
end

