-- ==== Sys2Proof/Laws/PerInstr.lean ====
section
/-! SUPPORT. The family `EncodeLength`, one lemma per constructor of `Instr`: the encoding of an instruction has the length
R72 of spec/30_encoding.md gives it. -/

namespace Sys2Proof.Laws.EncodeLength

/-- An instruction's encoding is as long as its mode says: the opcode and ModeBytes operand bytes (R70, R72). -/
def Statement (i : Instr) : Prop := (encode i).length = i.length

/-- The operand bytes of a mode (R71). -/
theorem operandBytes_length (o : Operand) : (operandBytes o).length = modeBytes o.mode := by cases o <;> rfl

/-- The encoder writes one opcode byte and then the operand bytes. -/
theorem of_encode (i : Instr) : Statement i := by
  show (operandBytes i.operand).length + 1 = 1 + modeBytes i.operand.mode
  rw [operandBytes_length, Nat.add_comm]

theorem adc (o : Operand) : Statement (.adc o) := of_encode _
theorem and (o : Operand) : Statement (.and o) := of_encode _
theorem asl (o : Operand) : Statement (.asl o) := of_encode _
theorem bcc (off : Byte) : Statement (.bcc off) := of_encode _
theorem bcs (off : Byte) : Statement (.bcs off) := of_encode _
theorem beq (off : Byte) : Statement (.beq off) := of_encode _
theorem bit (o : Operand) : Statement (.bit o) := of_encode _
theorem bmi (off : Byte) : Statement (.bmi off) := of_encode _
theorem bne (off : Byte) : Statement (.bne off) := of_encode _
theorem bpl (off : Byte) : Statement (.bpl off) := of_encode _
theorem brk : Statement .brk := of_encode _
theorem bvc (off : Byte) : Statement (.bvc off) := of_encode _
theorem bvs (off : Byte) : Statement (.bvs off) := of_encode _
theorem clc : Statement .clc := of_encode _
theorem cld : Statement .cld := of_encode _
theorem cli : Statement .cli := of_encode _
theorem clv : Statement .clv := of_encode _
theorem cmp (o : Operand) : Statement (.cmp o) := of_encode _
theorem cpx (o : Operand) : Statement (.cpx o) := of_encode _
theorem cpy (o : Operand) : Statement (.cpy o) := of_encode _
theorem dec (o : Operand) : Statement (.dec o) := of_encode _
theorem dex : Statement .dex := of_encode _
theorem dey : Statement .dey := of_encode _
theorem eor (o : Operand) : Statement (.eor o) := of_encode _
theorem inc (o : Operand) : Statement (.inc o) := of_encode _
theorem inx : Statement .inx := of_encode _
theorem iny : Statement .iny := of_encode _
theorem jmp (o : Operand) : Statement (.jmp o) := of_encode _
theorem jsr (target : Word) : Statement (.jsr target) := of_encode _
theorem lda (o : Operand) : Statement (.lda o) := of_encode _
theorem ldx (o : Operand) : Statement (.ldx o) := of_encode _
theorem ldy (o : Operand) : Statement (.ldy o) := of_encode _
theorem lsr (o : Operand) : Statement (.lsr o) := of_encode _
theorem nop : Statement .nop := of_encode _
theorem ora (o : Operand) : Statement (.ora o) := of_encode _
theorem pha : Statement .pha := of_encode _
theorem php : Statement .php := of_encode _
theorem pla : Statement .pla := of_encode _
theorem plp : Statement .plp := of_encode _
theorem rol (o : Operand) : Statement (.rol o) := of_encode _
theorem ror (o : Operand) : Statement (.ror o) := of_encode _
theorem rti : Statement .rti := of_encode _
theorem rts : Statement .rts := of_encode _
theorem sbc (o : Operand) : Statement (.sbc o) := of_encode _
theorem sec : Statement .sec := of_encode _
theorem sed : Statement .sed := of_encode _
theorem sei : Statement .sei := of_encode _
theorem sta (o : Operand) : Statement (.sta o) := of_encode _
theorem stx (o : Operand) : Statement (.stx o) := of_encode _
theorem sty (o : Operand) : Statement (.sty o) := of_encode _
theorem tax : Statement .tax := of_encode _
theorem tay : Statement .tay := of_encode _
theorem tsx : Statement .tsx := of_encode _
theorem txa : Statement .txa := of_encode _
theorem txs : Statement .txs := of_encode _
theorem tya : Statement .tya := of_encode _
theorem dflt (op : Byte) : Statement (.dflt op) := of_encode _

end Sys2Proof.Laws.EncodeLength
end

