-- ==== Sys2Proof/Laws/Phases.lean ====
section
/-! SUPPORT. The two phases of a step (spec 20_memory.md R57): first reads, in which alone a fault can be raised, then
writes. What an instruction leaves when it answers a next state is said once (`exec_phases`), and what a step leaves
(`runStep_phases`). -/

namespace Sys2Proof.Machine

/-- From `s` to `t` only reads were made: contents, parameters, cycle count, run state, A, X and Y are the same, and read
transactions alone were listed. -/
structure ReadPhase (s t : State) : Prop where
  mem : t.mem = s.mem
  cfg : t.cfg = s.cfg
  cyc : t.cyc = s.cyc
  halted : t.halted = s.halted
  fault : t.fault = s.fault
  faultAddr : t.faultAddr = s.faultAddr
  bus : ∃ rs, t.bus = s.bus ++ rs ∧ ∀ x ∈ rs, x.isRead = true

/-- From `s` to `t` no read was made and no fault taken. -/
structure WritePhase (s t : State) : Prop where
  cfg : t.cfg = s.cfg
  cyc : t.cyc = s.cyc
  halted : t.halted = s.halted
  fault : t.fault = s.fault
  faultAddr : t.faultAddr = s.faultAddr
  bus : ∃ ws, t.bus = s.bus ++ ws ∧ ∀ x ∈ ws, x.isRead = false

theorem ReadPhase.refl (s : State) : ReadPhase s s := ⟨rfl, rfl, rfl, rfl, rfl, rfl, [], by simp, by simp⟩

theorem ReadPhase.trans {s t u : State} (h : ReadPhase s t) (g : ReadPhase t u) : ReadPhase s u := by
  obtain ⟨rs, hb, hr⟩ := h.bus
  obtain ⟨rs', hb', hr'⟩ := g.bus
  refine ⟨g.mem.trans h.mem, g.cfg.trans h.cfg, g.cyc.trans h.cyc, g.halted.trans h.halted, g.fault.trans h.fault,
    g.faultAddr.trans h.faultAddr, rs ++ rs', by rw [hb', hb, List.append_assoc], fun x hx => ?_⟩
  rcases List.mem_append.mp hx with hx | hx
  · exact hr x hx
  · exact hr' x hx

/-- An update that touches none of these fields is a read phase. -/
theorem ReadPhase.of_eq {s t : State} (h : t = { s with a := t.a, x := t.x, y := t.y, sp := t.sp, p := t.p, pc := t.pc }) :
    ReadPhase s t := by
  rw [h]; exact ⟨rfl, rfl, rfl, rfl, rfl, rfl, [], by simp, by simp⟩

theorem ReadPhase.logRead (a : Word) (s : State) : ReadPhase s (s.logRead a) :=
  ⟨rfl, rfl, rfl, rfl, rfl, rfl, [.rd a (portAnswer s a)], rfl, by simp [Access.isRead]⟩

theorem WritePhase.refl (s : State) : WritePhase s s := ⟨rfl, rfl, rfl, rfl, rfl, [], by simp, by simp⟩

theorem WritePhase.trans {s t u : State} (h : WritePhase s t) (g : WritePhase t u) : WritePhase s u := by
  obtain ⟨rs, hb, hr⟩ := h.bus
  obtain ⟨rs', hb', hr'⟩ := g.bus
  refine ⟨g.cfg.trans h.cfg, g.cyc.trans h.cyc, g.halted.trans h.halted, g.fault.trans h.fault,
    g.faultAddr.trans h.faultAddr, rs ++ rs', by rw [hb', hb, List.append_assoc], fun x hx => ?_⟩
  rcases List.mem_append.mp hx with hx | hx
  · exact hr x hx
  · exact hr' x hx

theorem WritePhase.of_eq {s t : State} (h : t = { s with a := t.a, x := t.x, y := t.y, sp := t.sp, p := t.p, pc := t.pc }) :
    WritePhase s t := by
  rw [h]; exact ⟨rfl, rfl, rfl, rfl, rfl, [], by simp, by simp⟩

theorem WritePhase.setP_setPC (p : Byte) (w : Word) (s : State) : WritePhase s ((s.setP p).setPC w) := .of_eq rfl

theorem WritePhase.writeByte (a : Word) (v : Byte) (s : State) : WritePhase s (writeByte a v s) :=
  ⟨rfl, rfl, rfl, rfl, rfl, [.wr a v], rfl, by simp [Access.isRead]⟩

theorem WritePhase.push (v : Byte) (s : State) : WritePhase s (push v s) :=
  (WritePhase.writeByte _ _ s).trans (.of_eq rfl)

theorem WritePhase.store (c : Ctx) (v : Byte) (s : State) : WritePhase s (store c v s) := by
  unfold Machine.store
  split <;> first | exact .writeByte _ _ _ | exact .of_eq rfl

/-- A fault comes out of a read phase. A `MEM_READ` fault records the address of the read made last, and any other fault
the address `w`. -/
def FailsWell (w : Word) (s : State) (f : Fault) (a : Word) (t : State) : Prop :=
  ReadPhase s t ∧ (f = .memRead → ∃ b, t.bus = b ++ [.rd a none]) ∧ (f ≠ .memRead → a = w)

/-- A part of a step that only reads. -/
def Reads {α : Type} (w : Word) (s : State) : Res α → Prop
  | .ok _ t => ReadPhase s t
  | .fail f a t => FailsWell w s f a t

/-- A part of a step that reads and then writes. -/
def ReadsThenWrites {α : Type} (w : Word) (s : State) : Res α → Prop
  | .ok _ t => ∃ u, ReadPhase s u ∧ WritePhase u t
  | .fail f a t => FailsWell w s f a t

theorem FailsWell.after {w : Word} {s u t : State} {f : Fault} {a : Word} (h : ReadPhase s u) (g : FailsWell w u f a t) :
    FailsWell w s f a t := ⟨h.trans g.1, g.2⟩

section
variable {α β : Type} {w : Word} {s : State}

theorem Reads.bind {r : Res α} {k : α → State → Res β} (hr : Reads w s r)
    (hk : ∀ v t, r = .ok v t → Reads w t (k v t)) : Reads w s (r.bind k) := by
  cases r with
  | ok v t =>
    have := hk v t rfl
    rw [Res.bind_ok]
    cases h : k v t with
    | ok v' t' => rw [h] at this; exact ReadPhase.trans hr this
    | fail f a t' => rw [h] at this; exact FailsWell.after hr this
  | fail f a t => exact hr

theorem Reads.then {r : Res α} {k : α → State → Res β} (hr : Reads w s r)
    (hk : ∀ v t, r = .ok v t → ReadsThenWrites w t (k v t)) : ReadsThenWrites w s (r.bind k) := by
  cases r with
  | ok v t =>
    have := hk v t rfl
    rw [Res.bind_ok]
    cases h : k v t with
    | ok v' t' =>
      rw [h] at this
      obtain ⟨u, h1, h2⟩ := this
      exact ⟨u, ReadPhase.trans hr h1, h2⟩
    | fail f a t' => rw [h] at this; exact FailsWell.after hr this
  | fail f a t => exact hr

theorem ReadsThenWrites.of_write {v : α} {t : State} (h : WritePhase s t) : ReadsThenWrites w s (.ok v t) := ⟨s, .refl s, h⟩

theorem Reads.readByte (a : Word) : Reads w s (readByte a s) := by
  unfold Machine.readByte
  cases h : portAnswer s a with
  | some v => exact ReadPhase.logRead a s
  | none => exact ⟨.logRead a s, fun _ => ⟨s.bus, by simp [State.logRead, h]⟩, fun hf => absurd rfl hf⟩

theorem Reads.pull : Reads w s (Machine.pull s) := by
  have h : Reads w (s.setSP (s.sp + 1)) (Machine.pull s) := Reads.readByte _
  have h0 : ReadPhase s (s.setSP (s.sp + 1)) := .of_eq rfl
  cases hp : Machine.pull s with
  | ok v t => rw [hp] at h; exact h0.trans h
  | fail f a t => rw [hp] at h; exact FailsWell.after h0 h

theorem Reads.load (c : Ctx) : Reads w s (load c s) := by
  unfold Machine.load
  split <;> first | exact Reads.readByte _ | exact ReadPhase.refl s

theorem Reads.afterSetPC {pc : Word} {r : Res α} (h : Reads w (s.setPC pc) r) : Reads w s r := by
  have h0 : ReadPhase s (s.setPC pc) := .of_eq rfl
  cases r with
  | ok v t => exact h0.trans h
  | fail f a t => exact FailsWell.after h0 h

theorem Reads.resolve (o : Operand) : Reads w s (resolve o s) := by
  cases o with
  | indirectX b => exact Reads.afterSetPC ((Reads.readByte _).bind fun _ _ _ => (Reads.readByte _).bind fun _ _ _ => .refl _)
  | indirectY b => exact Reads.afterSetPC ((Reads.readByte _).bind fun _ _ _ => (Reads.readByte _).bind fun _ _ _ => .refl _)
  | indirect b => exact Reads.afterSetPC ((Reads.readByte _).bind fun _ _ _ => (Reads.readByte _).bind fun _ _ _ => .refl _)
  | _ => exact ReadPhase.of_eq rfl

end

/-- The context a resolver leaves (R40): the mode, the opcode's address, and no branch taken. -/
theorem resolve_ctx {o : Operand} {s t : State} {c : Ctx} (h : resolve o s = .ok c t) :
    c.mode = o.mode ∧ c.opAddr = s.pc ∧ c.taken = false ∧ c.extra = 0 := by
  cases o with
  | indirectX b =>
    obtain ⟨_, _, _, h⟩ := Res.bind_eq_ok.mp h
    obtain ⟨_, _, _, h⟩ := Res.bind_eq_ok.mp h
    cases h; exact ⟨rfl, rfl, rfl, rfl⟩
  | indirectY b =>
    obtain ⟨_, _, _, h⟩ := Res.bind_eq_ok.mp h
    obtain ⟨_, _, _, h⟩ := Res.bind_eq_ok.mp h
    cases h; exact ⟨rfl, rfl, rfl, rfl⟩
  | indirect b =>
    obtain ⟨_, _, _, h⟩ := Res.bind_eq_ok.mp h
    obtain ⟨_, _, _, h⟩ := Res.bind_eq_ok.mp h
    cases h; exact ⟨rfl, rfl, rfl, rfl⟩
  | _ => cases h; exact ⟨rfl, rfl, rfl, rfl⟩

/-- A routine reads and then writes, whatever the instruction. -/
theorem routineOf_phases (i : Instr) (c : Ctx) (s : State) : ReadsThenWrites c.opAddr s (routineOf i c s) := by
  have hread : ∀ f : Byte → State → State, (∀ v t, WritePhase t (f v t)) →
      ReadsThenWrites c.opAddr s (readInto f c s) := fun f hf =>
    (Reads.load c).then fun v t _ => .of_write (hf v t)
  have hmod : ∀ f g : State → Byte → Byte, ReadsThenWrites c.opAddr s (modify f g c s) := fun f g =>
    (Reads.load c).then fun v t _ => .of_write ((WritePhase.store _ _ _).trans (.of_eq rfl))
  have hupd : ∀ f : State → State, WritePhase s (f s) → ReadsThenWrites c.opAddr s (update f c s) := fun f hf =>
    .of_write hf
  have hst : ∀ r : State → Byte, ReadsThenWrites c.opAddr s (storeReg r c s) := fun r => .of_write (.store _ _ _)
  have hbr : ∀ b : Bool, ReadsThenWrites c.opAddr s (branch b c s) := fun b => by
    unfold branch; split <;> exact .of_write (.refl s)
  have hadd : ∀ b : Bool, ReadsThenWrites c.opAddr s (addInto b c s) := fun b => by
    have hd : Reads c.opAddr s (decimalCheck c s) := by
      unfold decimalCheck
      split
      · exact ⟨.refl s, (nomatch ·), fun _ => rfl⟩
      · exact ReadPhase.refl s
    exact hd.then fun _ _ _ => (Reads.load c).then fun _ _ _ => .of_write (.of_eq rfl)
  cases i with
  | adc o => exact hadd _
  | sbc o => exact hadd _
  | cmp o => exact hread _ fun _ _ => .of_eq rfl
  | cpx o => exact hread _ fun _ _ => .of_eq rfl
  | cpy o => exact hread _ fun _ _ => .of_eq rfl
  | and o => exact hread _ fun _ _ => .of_eq rfl
  | ora o => exact hread _ fun _ _ => .of_eq rfl
  | eor o => exact hread _ fun _ _ => .of_eq rfl
  | bit o => exact hread _ fun _ _ => .of_eq rfl
  | asl o => exact hmod _ _
  | lsr o => exact hmod _ _
  | rol o => exact hmod _ _
  | ror o => exact hmod _ _
  | inc o => exact hmod _ _
  | dec o => exact hmod _ _
  | lda o => exact hread _ fun _ _ => .of_eq rfl
  | ldx o => exact hread _ fun _ _ => .of_eq rfl
  | ldy o => exact hread _ fun _ _ => .of_eq rfl
  | sta o => exact hst _
  | stx o => exact hst _
  | sty o => exact hst _
  | pha => exact hupd _ (.push _ _)
  | php => exact hupd _ (.push _ _)
  | pla => exact Reads.pull.then fun _ _ _ => .of_write (.of_eq rfl)
  | plp => exact Reads.pull.then fun _ _ _ => .of_write (.of_eq rfl)
  | jmp o => exact .of_write (.of_eq rfl)
  | jsr t => exact .of_write ((WritePhase.push _ _).trans ((WritePhase.push _ _).trans (.of_eq rfl)))
  | rts => exact Reads.pull.then fun _ _ _ => Reads.pull.then fun _ _ _ => .of_write (.of_eq rfl)
  | bcc off => exact hbr _
  | bcs off => exact hbr _
  | beq off => exact hbr _
  | bne off => exact hbr _
  | bmi off => exact hbr _
  | bpl off => exact hbr _
  | bvc off => exact hbr _
  | bvs off => exact hbr _
  | brk =>
    show ReadsThenWrites c.opAddr s (breakTrap c s)
    unfold breakTrap
    split
    · exact ⟨.refl s, (nomatch ·), fun _ => rfl⟩
    · have ht : ReadsThenWrites c.opAddr s (trapEntry s) :=
        (Reads.readByte _).then fun _ _ _ => (Reads.readByte _).then fun _ _ _ => .of_write
          ((WritePhase.push _ _).trans ((WritePhase.push _ _).trans ((WritePhase.push _ _).trans (.setP_setPC _ _ _))))
      cases h : trapEntry s with
      | ok v t => rw [h] at ht; exact ht
      | fail f a t => rw [h] at ht; exact ht
  | rti =>
    show ReadsThenWrites c.opAddr s (breakReturn c s)
    unfold breakReturn
    split
    · exact ⟨.refl s, (nomatch ·), fun _ => rfl⟩
    · have ht : Reads c.opAddr s (trapReturn s) :=
        Reads.pull.bind fun p t _ => by
          have h0 : ReadPhase t (t.setP p) := .of_eq rfl
          have h1 : Reads c.opAddr (t.setP p) ((pull (t.setP p)).bind fun lo s =>
              (pull s).bind fun hi s => .ok () (s.setPC (hiLo hi lo))) :=
            Reads.pull.bind fun _ _ _ => Reads.pull.bind fun _ _ _ => ReadPhase.of_eq rfl
          revert h1
          cases (pull (t.setP p)).bind fun lo s => (pull s).bind fun hi s => Res.ok () (s.setPC (hiLo hi lo)) with
          | ok v u => exact fun h1 => h0.trans h1
          | fail f a u => exact fun h1 => FailsWell.after h0 h1
      exact ht.then fun _ t _ => .of_write (.refl t)
  | _ => exact hupd _ (.of_eq rfl)

/-- What a routine leaves of its context: it is unchanged, or the instruction is a branch taken. -/
theorem routineOf_ctx {i : Instr} {c c' : Ctx} {s t : State} (h : routineOf i c s = .ok c' t) :
    c' = c ∨ (i.operand.mode = .relative ∧ c'.mode = c.mode ∧ c'.extra = c.extra) := by
  have hbr : ∀ b : Bool, branch b c s = .ok c' t → c' = c ∨ (c'.mode = c.mode ∧ c'.extra = c.extra) := by
    intro b hb
    unfold branch at hb
    split at hb
    · cases hb; exact .inr ⟨rfl, rfl⟩
    · cases hb; exact .inl rfl
  have hbr' : ∀ b : Bool, branch b c s = .ok c' t →
      c' = c ∨ (Mode.relative = .relative ∧ c'.mode = c.mode ∧ c'.extra = c.extra) :=
    fun b hb => (hbr b hb).imp id fun h => ⟨rfl, h⟩
  have hb : ∀ {α : Type} {r : Res α} {f : α → State → State}, (r.bind fun v s => Res.ok c (f v s)) = .ok c' t → c' = c := by
    intro α r f hr
    obtain ⟨_, _, _, h2⟩ := Res.bind_eq_ok.mp hr
    cases h2; rfl
  cases i with
  | adc o => obtain ⟨_, _, _, h⟩ := Res.bind_eq_ok.mp h; exact .inl (hb h)
  | sbc o => obtain ⟨_, _, _, h⟩ := Res.bind_eq_ok.mp h; exact .inl (hb h)
  | rts => obtain ⟨_, _, _, h⟩ := Res.bind_eq_ok.mp h; exact .inl (hb h)
  | bcc off => exact hbr' _ h
  | bcs off => exact hbr' _ h
  | beq off => exact hbr' _ h
  | bne off => exact hbr' _ h
  | bmi off => exact hbr' _ h
  | bpl off => exact hbr' _ h
  | bvc off => exact hbr' _ h
  | bvs off => exact hbr' _ h
  | brk =>
    change breakTrap c s = .ok c' t at h
    unfold breakTrap at h
    split at h
    · cases h
    · exact .inl (hb (f := fun _ s => s) h)
  | rti =>
    change breakReturn c s = .ok c' t at h
    unfold breakReturn at h
    split at h
    · cases h
    · exact .inl (hb (f := fun _ s => s) h)
  | _ => first | (cases h; exact .inl rfl) | exact .inl (hb h)

/-- What an instruction that answers a next state has done: reads, then writes, then PC set and at most two cycles
counted; or reads, then a fault taken. -/
theorem exec_phases {i : Instr} {s t : State} (h : exec i s = .next t) :
    (∃ u v pc k, ReadPhase s u ∧ WritePhase u v ∧ k ≤ 2 ∧ t = (v.setPC pc).addCyc k) ∨
      ∃ f a u, FailsWell s.pc s f a u ∧ t = takeFault s f a u := by
  by_cases hl : i.pairLegal = true
  · rw [exec_of_legal hl] at h
    have hph : ReadsThenWrites s.pc s ((resolve i.operand s).bind (routineOf i)) :=
      (Reads.resolve _).then fun c t hc => by
        have := routineOf_phases i c t
        rwa [(resolve_ctx hc).2.1] at this
    split at h
    · rename_i c v hb
      rw [hb] at hph
      obtain ⟨u, hu, hw⟩ := hph
      cases h
      refine .inl ⟨u, v, _, _, hu, hw, ?_, rfl⟩
      obtain ⟨c₀, u₀, h₀, hr⟩ := Res.bind_eq_ok.mp hb
      obtain ⟨hm, -, ht, he⟩ := resolve_ctx h₀
      rcases routineOf_ctx hr with rfl | ⟨hrel, hm', he'⟩
      · rw [he]
        unfold branchCycles penalty bitNat
        rw [ht]
        split <;> simp
      · have hc : canCross c.mode = false := by rw [hm', hm, hrel]; rfl
        rw [he', he]
        unfold branchCycles penalty bitNat
        rw [hc]
        cases c.taken <;> cases c.pcCross <;> simp
    · rename_i f a u hb
      rw [hb] at hph
      cases h
      exact .inr ⟨f, a, u, hph, rfl⟩
  · rw [exec_of_illegal (by simpa using hl)] at h
    cases h

theorem Reads.readBytes {w : Word} : ∀ (n : Nat) (a : Word) (s : State), Reads w s (readBytes n a s)
  | 0, _, s => ReadPhase.refl s
  | n + 1, _, _ => (Reads.readByte _).bind fun _ _ _ => (Reads.readBytes n _ _).bind fun _ _ _ => ReadPhase.refl _

/-- The fetch only reads. -/
theorem Reads.fetch {w : Word} (s : State) : Reads w s (fetch s) := by
  refine (Reads.readByte _).bind fun op t _ => ?_
  split
  · exact ReadPhase.refl _
  · refine (Reads.readBytes _ _ _).bind fun _ _ _ => ?_
    split <;> exact ReadPhase.refl _

/-- Everything but the list of transactions and what the devices have seen is as it was. -/
def OnlyFetched (s t : State) : Prop := t = { s with devLog := t.devLog, bus := t.bus }

theorem OnlyFetched.trans {s t u : State} (h : OnlyFetched s t) (g : OnlyFetched t u) : OnlyFetched s u := by
  unfold OnlyFetched at *
  rw [g, h]

theorem OnlyFetched.bind {α β : Type} {s : State} {r : Res α} {k : α → State → Res β} (hr : OnlyFetched s r.state)
    (hk : ∀ v t, OnlyFetched t (k v t).state) : OnlyFetched s (r.bind k).state := by
  cases r with
  | ok v t => exact hr.trans (hk v t)
  | fail f a t => exact hr

theorem OnlyFetched.readByte (a : Word) (s : State) : OnlyFetched s (readByte a s).state := by
  rw [readByte_state]; rfl

theorem OnlyFetched.readBytes : ∀ (n : Nat) (a : Word) (s : State), OnlyFetched s (readBytes n a s).state
  | 0, _, _ => rfl
  | _ + 1, _, _ => .bind (.readByte _ _) fun _ _ => .bind (.readBytes _ _ _) fun _ _ => rfl

/-- The fetch leaves the registers, CYC, the run state, memory and the parameters as they were. -/
theorem OnlyFetched.fetch (s : State) : OnlyFetched s (fetch s).state := by
  refine .bind (.readByte _ _) fun op t => ?_
  split
  · rfl
  · refine .bind (.readBytes _ _ _) fun _ _ => ?_
    split <;> rfl

end Sys2Proof.Machine
end

