-- ==== Sys2Proof/Laws/Table.lean ====
section
/-! SUPPORT. What the admission check of a table (R80) says. -/

namespace Sys2Proof

theorem entriesOk_iff {n : Nat} {t : List Entry} :
    entriesOk n t = true ↔ t.length = n ∧ ∀ e ∈ t, entryOk e = true := by
  induction t generalizing n with
  | nil => cases n <;> simp [entriesOk]
  | cons e es ih =>
    cases n with
    | zero => simp [entriesOk]
    | succ n => cases h : entryOk e <;> simp [entriesOk, h, ih]

/-- R80 in words: 256 entries, and every one passes the three checks. -/
theorem admitted_iff {t : List Entry} : admitted t = true ↔ t.length = 256 ∧ ∀ e ∈ t, entryOk e = true := entriesOk_iff

/-- An admitted table has an entry that passes the checks at every opcode (R35, R74). -/
theorem entry_of_admitted {t : List Entry} (h : admitted t = true) (op : Byte) :
    ∃ e, t[op.toNat]? = some e ∧ entryOk e = true := by
  obtain ⟨hl, ha⟩ := admitted_iff.mp h
  have hlt : op.toNat < t.length := by rw [hl]; exact op.isLt
  exact ⟨t[op.toNat], List.getElem?_eq_getElem hlt, ha _ (List.getElem_mem hlt)⟩

end Sys2Proof
end

