-- ==== Sys2Proof/Tests/Slice0.lean ====
section
/-! SUPPORT. The model's own tests. Expected values come from spec/95_test_vectors.md (its section is named at each group)
or are written out by hand from the encodings of spec/30_encoding.md. Then the witnesses: for each statement of
Certificates/Slice0/Obligations.lean that has hypotheses, a state and operands that meet them all together. -/

namespace Sys2Proof.Tests

open Sys2Proof Sys2Proof.Machine

/-! ### Helpers -/

/-- A field of the next state, or none where there is no next state. -/
def got {α : Type} (f : State → α) : Answer → Option α
  | .next t => some (f t)
  | .fault _ => none
  | .refused _ => none

/-- Bytes of memory laid over a state's contents. -/
def State.put (cells : List (Word × Byte)) (s : State) : State :=
  { s with mem := cells.foldl (fun m c => Memory.set m c.1.toNat c.2) s.mem }

/-- The state of section 2's vectors: reset, with an instruction's bytes at an address. -/
def codeAt (pc : Word) (bytes : List Byte) : State := { State.reset with pc := pc, mem := layBytes [] pc bytes }

/-- The same at 0x0200, where section 2 puts it unless it says otherwise. -/
def code (bytes : List Byte) : State := codeAt 0x0200 bytes

/-- A map in which one address is unserved and the rest is plain. -/
def unservedAt (a : Nat) (s : State) : State := { s with cfg := { s.cfg with map := [⟨a, 1, .unserved⟩] } }

/-- `INTERRUPT_STUBS = nmos`. -/
def nmos (s : State) : State := { s with cfg := { s.cfg with stubs := .nmos } }

/-- `DECIMAL_POLICY = fault`. -/
def decimalFault (s : State) : State := { s with cfg := { s.cfg with decimal := .fault } }

/-- A map whose one region is a device over all of memory, served by collaborator 7. -/
def deviceState : State := { State.reset with cfg := { configStd with map := [⟨0, 0x10000, .device⟩], collaborator := 7 } }

/-- A state at an instruction whose own entry is in order, with a table in which another entry fails R80. -/
def badTable : State := { code [0xEA] with cfg := { configStd with table := stdTable.set 0xA9 ⟨.immediate, .STA, 2, 2⟩ } }

/-- A, P, PC and CYC. -/
def accOf (t : State) : Byte × Byte × Word × Nat := (t.a, t.p, t.pc, t.cyc)

/-- X, Y, SP, P and CYC. -/
def regsOf (t : State) : Byte × Byte × Byte × Byte × Nat := (t.x, t.y, t.sp, t.p, t.cyc)

/-- A byte of memory, P and CYC. -/
def byteOf (a : Word) (t : State) : Byte × Byte × Nat := (peek t a, t.p, t.cyc)

/-- The run state, PC and CYC. -/
def runOf (t : State) : Bool × Option Fault × Word × Word × Nat := (t.halted, t.fault, t.faultAddr, t.pc, t.cyc)


/-! ### WellFormed: an ill-formed term for each check, which the check refuses -/

theorem test_sta_immediate_is_illegal :
    (Instr.sta (.immediate 0x10)).pairLegal = false := by decide

theorem test_jmp_indirect_y_is_illegal :
    (Instr.jmp (.indirectY 0x10)).wf = false := by decide

theorem test_dflt_of_a_named_opcode_is_ill_formed :
    (Instr.dflt 0xEA).opcodeUnnamed = false := by decide

theorem test_dflt_of_an_unnamed_opcode_is_well_formed :
    (Instr.dflt 0x02).wf = true := by decide

theorem test_entry_with_a_bad_pair :
    entryOk ⟨.immediate, .STA, 2, 2⟩ = false := by decide

theorem test_entry_with_a_bad_size :
    entryOk ⟨.immediate, .LDA, 2, 1⟩ = false := by decide

theorem test_entry_with_no_cycles :
    entryOk ⟨.immediate, .LDA, 0, 2⟩ = false := by decide

theorem test_table_of_255_entries :
    admitted (stdTable.take 255) = false := by decide +kernel

theorem test_table_with_one_bad_entry :
    admitted (stdTable.set 0xA9 ⟨.immediate, .STA, 2, 2⟩) = false := by decide +kernel

theorem test_config_with_a_bad_table :
    Config.wf { configStd with table := [] } = false := by decide

theorem test_mask_outside_bits_5_4 :
    Config.maskOk { configStd with pushMask := 0x40 } = false := by decide

theorem test_config_with_a_bad_mask :
    Config.wf { configStd with pushMask := 0x80 } = false := by decide +kernel

theorem test_std_config_is_well_formed :
    configStd.wf = true := by decide +kernel

/-! ### Decode: a word of each constructor, written out from R79 (opcode) and R71 (operand bytes, low byte first)

Each is a conjunct of one theorem per family; the second component is what is left of the bytes. -/

theorem test_decode_arithmetic_1 :
    decode [0x61, 0x40] = .ok (.adc (.indirectX 0x40), []) ∧
    decode [0x69, 0xB0] = .ok (.adc (.immediate 0xB0), []) ∧
    decode [0xF1, 0x86] = .ok (.sbc (.indirectY 0x86), []) ∧
    decode [0xF9, 0xFF, 0x20] = .ok (.sbc (.absoluteY 0x20FF), []) ∧
    decode [0xC9, 0xA0] = .ok (.cmp (.immediate 0xA0), []) ∧
    decode [0xDD, 0x34, 0x12] = .ok (.cmp (.absoluteX 0x1234), []) := by decide

theorem test_encode_arithmetic_1 :
    encode (.adc (.indirectX 0x40)) = [0x61, 0x40] ∧
    encode (.adc (.immediate 0xB0)) = [0x69, 0xB0] ∧
    encode (.sbc (.indirectY 0x86)) = [0xF1, 0x86] ∧
    encode (.sbc (.absoluteY 0x20FF)) = [0xF9, 0xFF, 0x20] ∧
    encode (.cmp (.immediate 0xA0)) = [0xC9, 0xA0] ∧
    encode (.cmp (.absoluteX 0x1234)) = [0xDD, 0x34, 0x12] := by decide

theorem test_decode_arithmetic_2 :
    decode [0xE4, 0x10] = .ok (.cpx (.zeroPage 0x10), []) ∧
    decode [0xCC, 0x34, 0x12] = .ok (.cpy (.absolute 0x1234), []) := by decide

theorem test_encode_arithmetic_2 :
    encode (.cpx (.zeroPage 0x10)) = [0xE4, 0x10] ∧
    encode (.cpy (.absolute 0x1234)) = [0xCC, 0x34, 0x12] := by decide

theorem test_decode_logic :
    decode [0x35, 0xF0] = .ok (.and (.zeroPageX 0xF0), []) ∧
    decode [0x0D, 0x34, 0x12] = .ok (.ora (.absolute 0x1234), []) ∧
    decode [0x11, 0x20] = .ok (.ora (.indirectY 0x20), []) ∧
    decode [0x49, 0xFF] = .ok (.eor (.immediate 0xFF), []) ∧
    decode [0x24, 0x10] = .ok (.bit (.zeroPage 0x10), []) ∧
    decode [0x2C, 0x34, 0x12] = .ok (.bit (.absolute 0x1234), []) := by decide

theorem test_encode_logic :
    encode (.and (.zeroPageX 0xF0)) = [0x35, 0xF0] ∧
    encode (.ora (.absolute 0x1234)) = [0x0D, 0x34, 0x12] ∧
    encode (.ora (.indirectY 0x20)) = [0x11, 0x20] ∧
    encode (.eor (.immediate 0xFF)) = [0x49, 0xFF] ∧
    encode (.bit (.zeroPage 0x10)) = [0x24, 0x10] ∧
    encode (.bit (.absolute 0x1234)) = [0x2C, 0x34, 0x12] := by decide

theorem test_decode_shift_1 :
    decode [0x0A] = .ok (.asl .accumulator, []) ∧
    decode [0x1E, 0xFF, 0x20] = .ok (.asl (.absoluteX 0x20FF), []) ∧
    decode [0x46, 0x10] = .ok (.lsr (.zeroPage 0x10), []) ∧
    decode [0x2A] = .ok (.rol .accumulator, []) ∧
    decode [0x6E, 0x34, 0x12] = .ok (.ror (.absolute 0x1234), []) ∧
    decode [0xF6, 0x10] = .ok (.inc (.zeroPageX 0x10), []) := by decide

theorem test_encode_shift_1 :
    encode (.asl .accumulator) = [0x0A] ∧
    encode (.asl (.absoluteX 0x20FF)) = [0x1E, 0xFF, 0x20] ∧
    encode (.lsr (.zeroPage 0x10)) = [0x46, 0x10] ∧
    encode (.rol .accumulator) = [0x2A] ∧
    encode (.ror (.absolute 0x1234)) = [0x6E, 0x34, 0x12] ∧
    encode (.inc (.zeroPageX 0x10)) = [0xF6, 0x10] := by decide

theorem test_decode_shift_2 :
    decode [0xCE, 0x34, 0x12] = .ok (.dec (.absolute 0x1234), []) ∧
    decode [0xE8] = .ok (.inx, []) ∧
    decode [0xC8] = .ok (.iny, []) ∧
    decode [0xCA] = .ok (.dex, []) ∧
    decode [0x88] = .ok (.dey, []) := by decide

theorem test_encode_shift_2 :
    encode (.dec (.absolute 0x1234)) = [0xCE, 0x34, 0x12] ∧
    encode (.inx) = [0xE8] ∧
    encode (.iny) = [0xC8] ∧
    encode (.dex) = [0xCA] ∧
    encode (.dey) = [0x88] := by decide

theorem test_decode_load_store_1 :
    decode [0xA9, 0x80] = .ok (.lda (.immediate 0x80), []) ∧
    decode [0xBD, 0xFF, 0x20] = .ok (.lda (.absoluteX 0x20FF), []) ∧
    decode [0xB6, 0xF0] = .ok (.ldx (.zeroPageY 0xF0), []) ∧
    decode [0xBE, 0x34, 0x12] = .ok (.ldx (.absoluteY 0x1234), []) ∧
    decode [0xBC, 0x34, 0x12] = .ok (.ldy (.absoluteX 0x1234), []) ∧
    decode [0x81, 0x20] = .ok (.sta (.indirectX 0x20), []) := by decide

theorem test_encode_load_store_1 :
    encode (.lda (.immediate 0x80)) = [0xA9, 0x80] ∧
    encode (.lda (.absoluteX 0x20FF)) = [0xBD, 0xFF, 0x20] ∧
    encode (.ldx (.zeroPageY 0xF0)) = [0xB6, 0xF0] ∧
    encode (.ldx (.absoluteY 0x1234)) = [0xBE, 0x34, 0x12] ∧
    encode (.ldy (.absoluteX 0x1234)) = [0xBC, 0x34, 0x12] ∧
    encode (.sta (.indirectX 0x20)) = [0x81, 0x20] := by decide

theorem test_decode_load_store_2 :
    decode [0x99, 0x34, 0x12] = .ok (.sta (.absoluteY 0x1234), []) ∧
    decode [0x96, 0xFF] = .ok (.stx (.zeroPageY 0xFF), []) ∧
    decode [0x94, 0xFF] = .ok (.sty (.zeroPageX 0xFF), []) := by decide

theorem test_encode_load_store_2 :
    encode (.sta (.absoluteY 0x1234)) = [0x99, 0x34, 0x12] ∧
    encode (.stx (.zeroPageY 0xFF)) = [0x96, 0xFF] ∧
    encode (.sty (.zeroPageX 0xFF)) = [0x94, 0xFF] := by decide

theorem test_decode_transfer_stack_1 :
    decode [0xAA] = .ok (.tax, []) ∧
    decode [0xA8] = .ok (.tay, []) ∧
    decode [0x8A] = .ok (.txa, []) ∧
    decode [0x98] = .ok (.tya, []) ∧
    decode [0xBA] = .ok (.tsx, []) ∧
    decode [0x9A] = .ok (.txs, []) := by decide

theorem test_encode_transfer_stack_1 :
    encode (.tax) = [0xAA] ∧
    encode (.tay) = [0xA8] ∧
    encode (.txa) = [0x8A] ∧
    encode (.tya) = [0x98] ∧
    encode (.tsx) = [0xBA] ∧
    encode (.txs) = [0x9A] := by decide

theorem test_decode_transfer_stack_2 :
    decode [0x48] = .ok (.pha, []) ∧
    decode [0x08] = .ok (.php, []) ∧
    decode [0x68] = .ok (.pla, []) ∧
    decode [0x28] = .ok (.plp, []) := by decide

theorem test_encode_transfer_stack_2 :
    encode (.pha) = [0x48] ∧
    encode (.php) = [0x08] ∧
    encode (.pla) = [0x68] ∧
    encode (.plp) = [0x28] := by decide

theorem test_decode_control_1 :
    decode [0x4C, 0x34, 0x12] = .ok (.jmp (.absolute 0x1234), []) ∧
    decode [0x6C, 0xFF, 0x02] = .ok (.jmp (.indirect 0x02FF), []) ∧
    decode [0x20, 0x34, 0x12] = .ok (.jsr 0x1234, []) ∧
    decode [0x60] = .ok (.rts, []) ∧
    decode [0x90, 0x10] = .ok (.bcc 0x10, []) ∧
    decode [0xB0, 0x10] = .ok (.bcs 0x10, []) := by decide

theorem test_encode_control_1 :
    encode (.jmp (.absolute 0x1234)) = [0x4C, 0x34, 0x12] ∧
    encode (.jmp (.indirect 0x02FF)) = [0x6C, 0xFF, 0x02] ∧
    encode (.jsr 0x1234) = [0x20, 0x34, 0x12] ∧
    encode (.rts) = [0x60] ∧
    encode (.bcc 0x10) = [0x90, 0x10] ∧
    encode (.bcs 0x10) = [0xB0, 0x10] := by decide

theorem test_decode_control_2 :
    decode [0xF0, 0x80] = .ok (.beq 0x80, []) ∧
    decode [0xD0, 0xFB] = .ok (.bne 0xFB, []) ∧
    decode [0x30, 0x02] = .ok (.bmi 0x02, []) ∧
    decode [0x10, 0x02] = .ok (.bpl 0x02, []) ∧
    decode [0x50, 0x7F] = .ok (.bvc 0x7F, []) ∧
    decode [0x70, 0x80] = .ok (.bvs 0x80, []) := by decide

theorem test_encode_control_2 :
    encode (.beq 0x80) = [0xF0, 0x80] ∧
    encode (.bne 0xFB) = [0xD0, 0xFB] ∧
    encode (.bmi 0x02) = [0x30, 0x02] ∧
    encode (.bpl 0x02) = [0x10, 0x02] ∧
    encode (.bvc 0x7F) = [0x50, 0x7F] ∧
    encode (.bvs 0x80) = [0x70, 0x80] := by decide

theorem test_decode_flag_system_1 :
    decode [0x18] = .ok (.clc, []) ∧
    decode [0x38] = .ok (.sec, []) ∧
    decode [0x58] = .ok (.cli, []) ∧
    decode [0x78] = .ok (.sei, []) ∧
    decode [0xD8] = .ok (.cld, []) ∧
    decode [0xF8] = .ok (.sed, []) := by decide

theorem test_encode_flag_system_1 :
    encode (.clc) = [0x18] ∧
    encode (.sec) = [0x38] ∧
    encode (.cli) = [0x58] ∧
    encode (.sei) = [0x78] ∧
    encode (.cld) = [0xD8] ∧
    encode (.sed) = [0xF8] := by decide

theorem test_decode_flag_system_2 :
    decode [0xB8] = .ok (.clv, []) ∧
    decode [0xEA] = .ok (.nop, []) ∧
    decode [0x00] = .ok (.brk, []) ∧
    decode [0x40] = .ok (.rti, []) ∧
    decode [0x02] = .ok (.dflt 0x02, []) ∧
    decode [0xFF] = .ok (.dflt 0xFF, []) := by decide

theorem test_encode_flag_system_2 :
    encode (.clv) = [0xB8] ∧
    encode (.nop) = [0xEA] ∧
    encode (.brk) = [0x00] ∧
    encode (.rti) = [0x40] ∧
    encode (.dflt 0x02) = [0x02] ∧
    encode (.dflt 0xFF) = [0xFF] := by decide

theorem test_decode_flag_system_3 :
    decode [0x1A] = .ok (.dflt 0x1A, []) := by decide

theorem test_encode_flag_system_3 :
    encode (.dflt 0x1A) = [0x1A] := by decide

theorem test_decode_leaves_the_rest :
    decode [0xA2, 0x05, 0xA9, 0x00] = .ok (.ldx (.immediate 0x05), [0xA9, 0x00]) := by decide +kernel

theorem test_decode_of_nothing_is_truncated :
    decode [] = .error .truncated := by decide

theorem test_decode_of_a_short_operand_is_truncated :
    decode [0xAD, 0x00] = .error .truncated := by decide +kernel

theorem test_decode_by_a_short_table_is_rejected :
    decodeWith [] [0xA9, 0x00] = .error .notAdmitted := by decide

theorem test_table_word_is_low_byte_first :
    decodeTableWord 24 0x20FFBD = some (.lda (.absoluteX 0x20FF)) := by decide +kernel

theorem test_table_word_of_an_opcode_alone :
    decodeTableWord 8 0xFFA9 = some (.lda (.immediate 0x00)) := by decide +kernel

/-! ### The disassembler and the assembler (spec/95_test_vectors.md W7, section 3) -/

theorem test_disassemble_W7 :
    disassemble stdTable [0x69, 0xFF, 0x69, 0x80] = .ok [(0, .adc (.immediate 0xFF)), (2, .adc (.immediate 0x80))] := by decide +kernel

theorem test_disassemble_truncated :
    disassemble stdTable [0xEA, 0xAD, 0x00] = .error .truncated := by decide +kernel

theorem test_asm_W7 :
    asmLine 0x0000 (.adc (.immediate 0xFF)) = ['A', 'D', 'C', ' ', '#', '$', 'F', 'F'] := by decide

theorem test_asm_branch_target :
    asmLine 0x0208 (.bne 0xFB) = ['B', 'N', 'E', ' ', '$', '0', '2', '0', '5'] := by decide

theorem test_asm_indirect_y :
    asmLine 0x0311 (.lda (.indirectY 0x20)) = ['L', 'D', 'A', ' ', '(', '$', '2', '0', ')', ',', ' ', 'Y'] := by decide

theorem test_branch_offset_backward :
    branchOffset 0x0208 0x0205 = some 0xFB := by decide

theorem test_branch_offset_bounds :
    branchOffset 0x0200 0x0281 = some 0x7F ∧ branchOffset 0x0200 0x0282 = none ∧
    branchOffset 0x0200 0x0182 = some 0x80 ∧ branchOffset 0x0200 0x0181 = none := by decide

/-! ### Reset (R320) and the host ports (R42) -/

theorem test_host_reset_gives_the_reset_state :
    got id (hostReset initStd State.reset) = some State.reset := by decide +kernel

theorem test_cfg_table_refuses_a_short_table :
    cfgTable [] configStd = none := by decide

theorem test_cfg_table_takes_the_std_table :
    cfgTable stdTable configStd = some configStd := by decide +kernel

theorem test_host_reset_with_a_bad_table :
    got id (hostReset initStd { State.reset with cfg := { configStd with table := [] } }) = none := by decide

theorem test_reset_memory_is_canonical :
    Memory.wf State.reset.mem = true := by decide

theorem test_no_step_with_a_bad_table :
    got id (step badTable) = none ∧ stepAck badTable = none ∧ stepAck { badTable with halted := true } = none := by decide

theorem test_state_port_after_reset :
    statePort State.reset = ⟨0, 0, 0, 0xFF, 0, 0x0200, 0, false, 0, 0⟩ := by decide

/-! ### Memory -/

theorem test_memory_keeps_one_form :
    Memory.set (Memory.set (Memory.set [] 5 1) 3 2) 5 0 = [(3, 2)] := by decide

theorem test_memory_map :
    kindAt [⟨0x10, 2, .gap⟩, ⟨0x11, 4, .device⟩] 0x11 = .gap ∧ kindAt [⟨0x10, 2, .gap⟩, ⟨0x11, 4, .device⟩] 0x14 = .device ∧
    kindAt [⟨0x10, 2, .gap⟩, ⟨0x11, 4, .device⟩] 0x15 = .plain := by decide

theorem test_gap_reads_zero :
    got accOf (step { State.put [(0x3000, 0x77)] (code [0xAD, 0x00, 0x30]) with
      cfg := { configStd with map := [⟨0x3000, 1, .gap⟩] } }) = some (0x00, 0x02, 0x0203, 4) := by decide

theorem test_read_only_discards_a_write :
    got (byteOf 0x3000) (step { State.put [(0x3000, 0x77)] (code [0x8D, 0x00, 0x30]) with
      a := 0x11, cfg := { configStd with map := [⟨0x3000, 1, .readOnly⟩] } }) = some (0x77, 0x00, 4) := by decide

/-! ### Devices (R50, R56): what a device answers depends on the address and on all its transactions before -/

theorem test_device_store_is_a_device_transaction :
    got State.devLog (step { code [0x8D, 0x00, 0x30] with a := 0x5A, cfg := { configStd with map := [⟨0x3000, 2, .device⟩] } }) =
      some [.wr 0x3000 0x5A] := by decide

theorem test_device_answer_is_of_address_and_history :
    (portAnswer { deviceState with devLog := [.wr 0x3000 0x5A] } 0x3001 =
      deviceAnswer 7 [.wr 0x3000 0x5A] 0x3001) ∧
    portAnswer deviceState 0x3000 = deviceAnswer 7 [] 0x3000 := ⟨rfl, rfl⟩

/-! ### One step (spec/95_test_vectors.md sections 1 and 2; where it gives no vector, by hand from the rule named) -/

theorem test_adc_W2 :
    got accOf (step { code [0x69, 0xB0] with a := 0x50 }) = some (0x00, 0x03, 0x0202, 2) := by decide

theorem test_adc_overflow :
    got accOf (step { code [0x69, 0x00] with a := 0x7F, p := 0x01 }) = some (0x80, 0xC0, 0x0202, 2) := by decide

theorem test_sbc_W3 :
    got accOf (step { code [0xE9, 0xB0] with a := 0x50, p := 0x01 }) = some (0xA0, 0xC0, 0x0202, 2) := by decide

theorem test_sbc_borrow_in :
    got accOf (step { code [0xE9, 0x03] with a := 0x05 }) = some (0x01, 0x01, 0x0202, 2) := by decide

theorem test_adc_ignores_decimal_mode :
    got accOf (step { code [0x69, 0x01] with a := 0x09, p := 0x08 }) = some (0x0A, 0x08, 0x0202, 2) := by decide

theorem test_sbc_decimal_fault :
    got runOf (step (decimalFault { code [0xE9, 0x01] with a := 0x05, p := 0x09 })) = some (true, some .unsupportedDecimal, 0x0200, 0x0200, 0) := by decide

theorem test_cmp_unsigned_less :
    got accOf (step { code [0xC9, 0xF0] with a := 0x10, p := 0x40 }) = some (0x10, 0xC0, 0x0202, 2) := by decide

theorem test_cmp_bit7 :
    got accOf (step { code [0xC9, 0xF0] with a := 0x10, p := 0x40, cfg := { configStd with cmpN := .bit7 } }) =
      some (0x10, 0x40, 0x0202, 2) := by decide

theorem test_cpx_greater :
    got regsOf (step { code [0xE0, 0x10] with x := 0xF0, p := 0x40 }) = some (0xF0, 0x00, 0xFF, 0x41, 2) := by decide

theorem test_cpy_equal :
    got regsOf (step { code [0xC0, 0x40] with y := 0x40, p := 0x40 }) = some (0x00, 0x40, 0xFF, 0x43, 2) := by decide

theorem test_and :
    got accOf (step { code [0x29, 0x3C] with a := 0xF0 }) = some (0x30, 0x00, 0x0202, 2) := by decide

theorem test_ora :
    got accOf (step { code [0x09, 0x80] with a := 0x01 }) = some (0x81, 0x80, 0x0202, 2) := by decide

theorem test_eor :
    got accOf (step { code [0x49, 0xFF] with a := 0x77 }) = some (0x88, 0x80, 0x0202, 2) := by decide

theorem test_bit_copies_7_and_6 :
    got accOf (step { State.put [(0x10, 0xC0)] (code [0x24, 0x10]) with a := 0x01 }) = some (0x01, 0xC2, 0x0202, 3) := by decide

theorem test_bit_clears_n :
    got accOf (step { State.put [(0x10, 0x40)] (code [0x24, 0x10]) with a := 0x40, p := 0xC0 }) = some (0x40, 0x40, 0x0202, 3) := by decide

theorem test_asl_accumulator :
    got accOf (step { code [0x0A] with a := 0xFF, p := 0x01 }) = some (0xFE, 0x81, 0x0201, 2) := by decide

theorem test_asl_pays_no_penalty :
    got (byteOf 0x2100) (step { State.put [(0x2100, 0x81)] (code [0x1E, 0xFF, 0x20]) with x := 1 }) = some (0x02, 0x01, 7) := by decide

theorem test_lsr :
    got (byteOf 0x10) (step (State.put [(0x10, 0x03)] (code [0x46, 0x10]))) = some (0x01, 0x01, 5) := by decide

theorem test_rol_accumulator :
    got accOf (step { code [0x2A] with a := 0x40, p := 0x01 }) = some (0x81, 0x80, 0x0201, 2) := by decide

theorem test_rol :
    got (byteOf 0x10) (step { State.put [(0x10, 0x80)] (code [0x26, 0x10]) with p := 0x01 }) = some (0x01, 0x01, 5) := by decide

theorem test_ror_accumulator :
    got accOf (step { code [0x6A] with a := 0xA0, p := 0x01 }) = some (0xD0, 0x80, 0x0201, 2) := by decide

theorem test_ror :
    got (byteOf 0x10) (step { State.put [(0x10, 0x02)] (code [0x66, 0x10]) with p := 0x01 }) = some (0x81, 0x80, 5) := by decide

theorem test_inc :
    got (byteOf 0x10) (step { State.put [(0x10, 0xFF)] (code [0xE6, 0x10]) with p := 0x01 }) = some (0x00, 0x03, 5) := by decide

theorem test_dec :
    got (byteOf 0x10) (step (code [0xC6, 0x10])) = some (0xFF, 0x80, 5) := by decide

theorem test_inx :
    got regsOf (step { code [0xE8] with x := 0xFF }) = some (0x00, 0x00, 0xFF, 0x02, 2) := by decide

theorem test_fetch_wraps :
    got accOf (step (codeAt 0xFFFF [0xE8])) = some (0x00, 0x00, 0x0000, 2) ∧
    got accOf (step (codeAt 0xFFFF [0xA9, 0x42])) = some (0x42, 0x00, 0x0001, 2) := by decide

theorem test_iny :
    got regsOf (step { code [0xC8] with y := 0xFF }) = some (0x00, 0x00, 0xFF, 0x02, 2) := by decide

theorem test_dex :
    got regsOf (step (code [0xCA])) = some (0xFF, 0x00, 0xFF, 0x80, 2) := by decide

theorem test_dey :
    got regsOf (step { code [0x88] with y := 0x80 }) = some (0x00, 0x7F, 0xFF, 0x00, 2) := by decide

theorem test_lda_W4_crossing :
    got accOf (step { State.put [(0x2100, 0x7E)] (code [0xBD, 0xFF, 0x20]) with x := 1 }) = some (0x7E, 0x00, 0x0203, 5) := by decide

theorem test_lda_W6_zero_page_wrap :
    got accOf (step { State.put [(0x0001, 0x99), (0x0101, 0x11)] (code [0xB5, 0xFF]) with x := 2 }) = some (0x99, 0x80, 0x0202, 4) := by decide

theorem test_ldx :
    got regsOf (step { code [0xB6, 0xF0] with y := 0x20 }) = some (0x00, 0x20, 0xFF, 0x02, 4) := by decide

/-- By hand from R212 and R79. -/
theorem test_ldy :
    got regsOf (step (code [0xA0, 0x80])) = some (0x00, 0x80, 0xFF, 0x80, 2) := by decide

theorem test_sta_indirect_y_crossing :
    got (byteOf 0x4108) (step { State.put [(0x86, 0xF8), (0x87, 0x40)] (code [0x91, 0x86]) with a := 0x5A, y := 0x10 }) = some (0x5A, 0x00, 6) := by decide

theorem test_sta_makes_no_read :
    got State.bus (step { code [0x9D, 0xFF, 0x20] with a := 0x5A, x := 1 }) = some [.rd 0x0200 (some 0x9D), .rd 0x0201 (some 0xFF), .rd 0x0202 (some 0x20), .wr 0x2100 0x5A] := by decide

theorem test_stx :
    got (byteOf 0x0001) (step { code [0x96, 0xFF] with x := 0x33, y := 2 }) = some (0x33, 0x00, 4) := by decide

/-- By hand from R215 and R79. -/
theorem test_sty :
    got (byteOf 0x1234) (step { code [0x8C, 0x34, 0x12] with y := 0x44 }) = some (0x44, 0x00, 4) := by decide

theorem test_indirect_x_pointer_wrap :
    got accOf (step { State.put [(0xFF, 0x34), (0x00, 0x12), (0x100, 0x56), (0x1234, 0xAA), (0x5634, 0xBB)]
      (code [0xA1, 0xFE]) with x := 1 }) = some (0xAA, 0x80, 0x0202, 6) := by decide

theorem test_indirect_x_pointer_linear :
    got accOf (step { State.put [(0xFF, 0x34), (0x00, 0x12), (0x100, 0x56), (0x1234, 0xAA), (0x5634, 0xBB)]
      (code [0xA1, 0xFE]) with x := 1, cfg := { configStd with zpWrap := .linear } }) = some (0xBB, 0x80, 0x0202, 6) := by decide

theorem test_tax :
    got regsOf (step { code [0xAA] with a := 0x90 }) = some (0x90, 0x00, 0xFF, 0x80, 2) := by decide

/-- By hand from R217. -/
theorem test_tay :
    got regsOf (step { code [0xA8] with a := 0x90 }) = some (0x00, 0x90, 0xFF, 0x80, 2) := by decide

theorem test_txa :
    got accOf (step { code [0x8A] with a := 0x12 }) = some (0x00, 0x02, 0x0201, 2) := by decide

/-- By hand from R219. -/
theorem test_tya :
    got accOf (step { code [0x98] with y := 0x12 }) = some (0x12, 0x00, 0x0201, 2) := by decide

theorem test_tsx :
    got regsOf (step { code [0xBA] with sp := 0xFD }) = some (0xFD, 0x00, 0xFD, 0x80, 2) := by decide

theorem test_txs :
    got regsOf (step { code [0x9A] with p := 0x82 }) = some (0x00, 0x00, 0x00, 0x82, 2) := by decide

theorem test_pha :
    got (fun t => (peek t 0x0100, t.sp, t.cyc)) (step { code [0x48] with a := 0x77, sp := 0x00 }) = some (0x77, 0xFF, 3) := by decide

theorem test_pla :
    got (fun t => (t.a, t.sp, t.p, t.cyc)) (step (State.put [(0x0100, 0x80)] (code [0x68]))) = some (0x80, 0x00, 0x80, 4) := by decide

theorem test_php_mask :
    got (fun t => (peek t 0x01FF, t.sp, t.p)) (step { code [0x08] with p := 0xC3, cfg := { configStd with pushMask := 0x30 } }) =
      some (0xF3, 0xFE, 0xC3) := by decide

theorem test_plp_stores_bits_5_4 :
    got regsOf (step { State.put [(0x01FF, 0xFF)] (code [0x28]) with sp := 0xFE }) = some (0x00, 0x00, 0xFF, 0xFF, 4) := by decide

theorem test_jmp_W5_indirect_bug :
    got accOf (step (State.put [(0x02FF, 0x20), (0x0200, 0x04), (0x0300, 0x05)] (codeAt 0x0400 [0x6C, 0xFF, 0x02]))) = some (0x00, 0x00, 0x0420, 5) := by decide

theorem test_jmp_absolute :
    got accOf (step (code [0x4C, 0x34, 0x12])) = some (0x00, 0x00, 0x1234, 3) := by decide

theorem test_jsr :
    got (fun t => (t.pc, peek t 0x01FF, peek t 0x01FE, t.sp, t.cyc)) (step (codeAt 0x0600 [0x20, 0x34, 0x12])) =
      some (0x1234, 0x06, 0x02, 0xFD, 6) := by decide

theorem test_rts :
    got (fun t => (t.pc, t.sp, t.cyc)) (step { State.put [(0x01FE, 0x02), (0x01FF, 0x06)] (code [0x60]) with sp := 0xFD }) =
      some (0x0603, 0xFF, 6) := by decide

theorem test_bcs_taken_across_a_page :
    got accOf (step { codeAt 0x02F0 [0xB0, 0x10] with p := 0x01 }) = some (0x00, 0x01, 0x0302, 4) := by decide

theorem test_bcs_not_taken :
    got accOf (step { codeAt 0x02F0 [0xB0, 0x10] with p := 0x00 }) = some (0x00, 0x00, 0x02F2, 2) := by decide

theorem test_bcc :
    got accOf (step { codeAt 0x0300 [0x90, 0x10] with p := 0x00 }) = some (0x00, 0x00, 0x0312, 3) := by decide

theorem test_beq_backward_wrap :
    got accOf (step { codeAt 0x0010 [0xF0, 0x80] with p := 0x02 }) = some (0x00, 0x02, 0xFF92, 4) := by decide

theorem test_beq_page_of_the_next_instruction :
    got accOf (step { codeAt 0x02F0 [0xF0, 0x0C] with p := 0x02 }) = some (0x00, 0x02, 0x02FE, 3) := by decide

theorem test_bne_to_itself :
    got accOf (step { codeAt 0x0208 [0xD0, 0xFE] with p := 0x00 }) = some (0x00, 0x00, 0x0208, 3) := by decide

theorem test_bmi :
    got accOf (step { codeAt 0x0400 [0x30, 0x02] with p := 0x80 }) = some (0x00, 0x80, 0x0404, 3) := by decide

theorem test_bpl_not_taken :
    got accOf (step { codeAt 0x0400 [0x10, 0x02] with p := 0x80 }) = some (0x00, 0x80, 0x0402, 2) := by decide

theorem test_bvc :
    got accOf (step { codeAt 0x0280 [0x50, 0x7F] with p := 0x00 }) = some (0x00, 0x00, 0x0301, 4) := by decide

theorem test_bvs :
    got accOf (step { codeAt 0x0280 [0x70, 0x80] with p := 0x40 }) = some (0x00, 0x40, 0x0202, 3) := by decide

theorem test_clc :
    got accOf (step { code [0x18] with p := 0x01 }) = some (0x00, 0x00, 0x0201, 2) := by decide

theorem test_sec :
    got accOf (step { code [0x38] with p := 0x00 }) = some (0x00, 0x01, 0x0201, 2) := by decide

theorem test_cli :
    got accOf (step { code [0x58] with p := 0x04 }) = some (0x00, 0x00, 0x0201, 2) := by decide

theorem test_sei :
    got accOf (step { code [0x78] with p := 0x00 }) = some (0x00, 0x04, 0x0201, 2) := by decide

theorem test_cld :
    got accOf (step { code [0xD8] with p := 0x08 }) = some (0x00, 0x00, 0x0201, 2) := by decide

theorem test_sed :
    got accOf (step { code [0xF8] with p := 0x00 }) = some (0x00, 0x08, 0x0201, 2) := by decide

theorem test_clv :
    got accOf (step { code [0xB8] with p := 0x40 }) = some (0x00, 0x00, 0x0201, 2) := by decide

theorem test_nop :
    got accOf (step (codeAt 0x0300 [0xEA])) = some (0x00, 0x00, 0x0301, 2) := by decide

theorem test_dflt_W1 :
    got accOf (step { codeAt 0x0506 [0x02] with a := 1, p := 0xFF }) = some (0x01, 0xFF, 0x0507, 1) := by decide

theorem test_brk_stub :
    got runOf (step (codeAt 0x0600 [0x00])) = some (true, some .unsupportedBrk, 0x0600, 0x0600, 0) := by decide

theorem test_brk_nmos :
    got (fun t => ((peek t 0x0101, peek t 0x0100, peek t 0x01FF), t.sp, t.p, t.pc, t.cyc))
      (step (nmos { State.put [(0xFFFF, 0x07)] (codeAt 0x0600 [0x00]) with sp := 0x01, p := 0xC3 })) =
      some ((0x06, 0x02, 0xF3), 0xFE, 0xC7, 0x0700, 7) := by decide

theorem test_rti_stub :
    got runOf (step (codeAt 0x0700 [0x40])) = some (true, some .unsupportedRti, 0x0700, 0x0700, 0) := by decide

theorem test_rti_nmos :
    got (fun t => (t.p, t.pc, t.sp, t.cyc))
      (step (nmos { State.put [(0x01FD, 0x01), (0x01FE, 0x34), (0x01FF, 0x12)] (code [0x40]) with sp := 0xFC })) =
      some (0x01, 0x1234, 0xFF, 6) := by decide

theorem test_lda_unserved :
    got runOf (step (unservedAt 0x3000 { code [0xAD, 0x00, 0x30] with a := 0x11 })) = some (true, some .memRead, 0x3000, 0x0200, 0) := by decide

theorem test_inc_unserved_makes_no_write :
    got State.bus (step (unservedAt 0x3000 (code [0xEE, 0x00, 0x30]))) = some [.rd 0x0200 (some 0xEE), .rd 0x0201 (some 0x00), .rd 0x0202 (some 0x30), .rd 0x3000 none] := by decide

theorem test_operand_fetch_error_comes_first :
    got runOf (step (unservedAt 0x0201 <| decimalFault { code [0x69, 0x01] with p := 0x08 })) = some (true, some .memRead, 0x0201, 0x0200, 0) := by decide

theorem test_acks :
    stepAck (codeAt 0x0600 [0x00]) = some (.fault 1) ∧ stepAck (codeAt 0x0700 [0x40]) = some (.fault 2) ∧
    stepAck (unservedAt 0x3000 (code [0xAD, 0x00, 0x30])) = some (.fault 4) ∧ stepAck (code [0xEA]) = some (.ok 2) ∧
    stepAck { code [0xEA] with halted := true } = some .halted := by decide

theorem test_with_fetch_word_clears_a_halt :
    got accOf (step (State.withFetchWord { State.reset with halted := true, fault := some .memRead } 16 0x42A9)) =
      some (0x42, 0x00, 0x0202, 2) := by decide

/-! ### Witnesses: what the hypotheses of each statement ask for exists -/

/-- A state whose zero-page pointer at 0xFF (high byte at 0x00) and whose stack hold something. -/
def pointers : State :=
  { State.put [(0x00, 0x12), (0xFF, 0x34), (0x1234, 0x81), (0x02FF, 0x20), (0x0200, 0x04), (0x01FE, 0x02)] State.reset with
    y := 0x01, sp := 0xFD }

/-- A state whose pointer at 0xFF and the byte it leads to can be read while one address cannot. -/
def halfServed (a : Nat) : State := unservedAt a pointers

/-- The pointer of an operand (`pointer`), where its reads are answered. -/
def ptrOf (s : State) (o : Operand) : Option Word := (pointer s o).map (·.1)

/-- What an instruction reads as its operand, where the reads are answered. -/
def readOf (s : State) (o : Operand) : Option Byte :=
  match pointer s o with
  | none => none
  | some (ptr, t) => (operandSeen s o ptr t).map (·.1)

/-- The bytes that reads in order give, where each is answered. -/
def readAll (s : State) (as : List Word) : Option (List Byte) := (seesAll as s).map (·.1)

/-- The answer to a read made after others, which were all answered: `some none` is ERR. -/
def lastOf (s : State) (as : List Word) (a : Word) : Option (Option Byte) := (seesAll as s).map fun x => portAnswer x.2 a

/-- The result statements' premises are met where `readOf` gives a byte, so the witnesses below are stated by it. -/
theorem reads_of_readOf {s : State} {o : Operand} {m : Byte} (h : readOf s o = some m) :
    ∃ ptr t u, pointer s o = some (ptr, t) ∧ operandSeen s o ptr t = some (m, u) := by
  unfold readOf at h
  split at h
  · cases h
  · rename_i ptr t hp
    obtain ⟨⟨b, u⟩, hu, rfl⟩ := Option.map_eq_some_iff.mp h
    exact ⟨ptr, t, u, hp, hu⟩

theorem witness_ResetLoadsInit :
    admitted State.reset.cfg.table = true ∧ admitted badTable.cfg.table = false := by decide +kernel

theorem witness_ResetMeetsInvariant :
    let i : Init := ⟨0xFF, 0x80, 0x01, 0x00, 0xFF, 0xFFFF⟩
    let s := unservedAt 0xFFFF { pointers with halted := true, fault := some .memRead, faultAddr := 0x1234 }
    Memory.wf s.mem = true ∧ s.cfg.wf = true ∧ got State.pc (hostReset i s) = some 0xFFFF := by decide +kernel

theorem witness_LastRecordWins :
    let d : List (Option Record) := [some ⟨0x02, defaultEntry⟩, none]
    none ∈ d ∧ none ∉ [some (⟨0x02, defaultEntry⟩ : Record), some ⟨0x02, ⟨.implicit, .NOP, 2, 1⟩⟩] ∧
      (buildTable [⟨0x02, defaultEntry⟩, ⟨0x02, ⟨.implicit, .NOP, 2, 1⟩⟩])[2]? = some ⟨.implicit, .NOP, 2, 1⟩ := by
  decide +kernel

theorem witness_NoOpcodeIsUndecodable :
    admitted stdTable = true ∧ admitted (buildTable []) = true ∧
      admitted (stdTable.set 0x02 ⟨.absolute, .LDA, 4, 3⟩) = true := by decide +kernel

theorem witness_DecodeOfEncode :
    (Instr.lda (.absoluteX 0xFFFF)).wf = true ∧ (Instr.lda (.absoluteX 0x0000)).wf = true ∧
      (Instr.bne 0x80).wf = true ∧ (Instr.dflt 0xFF).wf = true ∧ (Instr.jsr 0xFF00).wf = true := by decide

theorem witness_EncodeOfDecode : decode [0x4C, 0xFF, 0x00, 0x01] = .ok (.jmp (.absolute 0x00FF), [0x01]) := by decide

theorem witness_DisassemblesInstructions :
    (∀ i ∈ [Instr.nop, .lda (.immediate 0xFF)], i.wf = true) ∧ (Instr.jsr 0x1234).wf = true ∧
      0 < 1 ∧ 2 < (Instr.jsr 0x1234).length := by decide

theorem witness_AssemblerOffsetInvertsBranch :
    (branchOffset 0xFFFE 0x007F).isSome = true ∧ (branchOffset 0xFFFE 0x0080).isSome = false ∧
      (branchOffset 0x0000 0xFF82).isSome = true ∧ (branchOffset 0x0000 0xFF81).isSome = false := by decide

theorem witness_StepRunsDecodedInstr :
    let s := codeAt 0xFFFE [0xBD, 0xFF, 0x20]
    s.halted = false ∧ admitted s.cfg.table = true ∧
      readAll s.clearBus (addrsFrom s.pc (1 + modeBytes .absoluteX)) = some [0xBD, 0xFF, 0x20] ∧
      s.cfg.table[(0xBD : Byte).toNat]? = some ⟨.absoluteX, .LDA, 4, 3⟩ ∧
      decodeWith s.cfg.table [0xBD, 0xFF, 0x20] = .ok (.lda (.absoluteX 0x20FF), []) := by decide +kernel

theorem witness_HaltedStepDoesNothing :
    let s := { State.reset with halted := true, fault := some .memRead }
    admitted s.cfg.table = true ∧ s.halted = true := by decide

theorem witness_AckReportsTheStep :
    (code [0xEA]).halted = false ∧ got State.halted (step (code [0xEA])) = some false ∧
      got State.halted (step (code [0x00])) = some true := by decide

theorem witness_EveryStepAnswersNext :
    admitted State.reset.cfg.table = true ∧ admitted badTable.cfg.table = false ∧
      admitted ({ badTable with halted := true } : State).cfg.table = false ∧
      badTable.cfg.table[(0xEA : Byte).toNat]?.map entryOk = some true := by decide +kernel

theorem witness_FaultsArePrecise :
    (code [0x00]).halted = false ∧ got (fun t => (t.halted, t.fault)) (step (code [0x00])) = some (true, some .unsupportedBrk) ∧
      got (fun t => (t.halted, t.fault)) (step (unservedAt 0x3000 (code [0xAD, 0x00, 0x30]))) = some (true, some .memRead) := by
  decide

theorem witness_EachFaultHasItsCause :
    (code [0x00]).halted = false ∧ got State.fault (step (code [0x00])) = some (some .unsupportedBrk) ∧
      got State.fault (step (code [0x40])) = some (some .unsupportedRti) ∧
      got State.fault (step (decimalFault { code [0x69, 0x01] with p := 0x08 })) = some (some .unsupportedDecimal) ∧
      got State.fault (step (unservedAt 0x0200 (code [0x69, 0x01]))) = some (some .memRead) := by decide

theorem witness_StepKeepsInvariant : Inv pointers ∧ got State.halted (step pointers) = some false := by
  refine ⟨⟨?_, ?_, rfl, fun _ => rfl⟩, ?_⟩ <;> decide +kernel

theorem witness_ReadsComeBeforeWrites :
    (code [0xE6, 0x10]).halted = false ∧ got State.bus (step (code [0xE6, 0x10])) =
      some ([.rd 0x0200 (some 0xE6), .rd 0x0201 (some 0x10), .rd 0x0010 (some 0x00)] ++ [.wr 0x0010 0x01]) := by decide

theorem witness_StepAddsBaseCycles :
    (codeAt 0x02F0 [0x90, 0x10]).halted = false ∧
      got (fun t => (t.halted, t.cyc)) (step (codeAt 0x02F0 [0x90, 0x10])) = some (false, 0 + 2 + 2) := by decide

theorem witness_CyclesDoNotInterfere :
    got State.cyc (step { code [0xEA] with cyc := 7 }) = (got State.cyc (step (code [0xEA]))).map (· + 7) := by decide

theorem witness_FetchErrorsComeFirst :
    let s := unservedAt 0x0200 State.reset
    let t := unservedAt 0x0000 (codeAt 0xFFFF [0xA9])
    let u := unservedAt 0x0000 (codeAt 0xFFFE [0xBD, 0xFF])
    (s.halted = false ∧ admitted s.cfg.table = true ∧ portAnswer s s.pc = none) ∧
      (t.halted = false ∧ admitted t.cfg.table = true ∧ readAll t.clearBus [t.pc] = some [0xA9] ∧
        t.cfg.table[(0xA9 : Byte).toNat]? = some ⟨.immediate, .LDA, 2, 2⟩ ∧ 1 ≤ modeBytes .immediate ∧
        lastOf t.clearBus [t.pc] (t.pc + 1) = some none) ∧
      (u.halted = false ∧ admitted u.cfg.table = true ∧ readAll u.clearBus [u.pc, u.pc + 1] = some [0xBD, 0xFF] ∧
        u.cfg.table[(0xBD : Byte).toNat]? = some ⟨.absoluteX, .LDA, 4, 3⟩ ∧ modeBytes .absoluteX = 2 ∧
        lastOf u.clearBus [u.pc, u.pc + 1] (u.pc + 2) = some none) := by decide +kernel

theorem witness_ResolversFollowTheirFormulas :
    ptrOf pointers (.indirectX 0xFF) = some 0x1234 ∧ ptrOf pointers (.indirectY 0xFF) = some 0x1234 ∧
      ptrOf pointers (.indirect 0xFFFF) = some 0x0000 ∧ ptrOf pointers (.immediate 0x00) = some 0 ∧
      ptrOf pointers (.relative 0xFF) = some 0 ∧ ptrOf (halfServed 0x00) (.indirectY 0xFF) = none := by decide

theorem witness_IndirectStaysInItsPage :
    ((0x0200 : Word) = (if (0xFF : Byte) = 0xFF then hiLo 0x02 0x00 else hiLo 0x02 0xFF + 1) ∧
        readAll (halfServed 0x0300) [hiLo 0x02 0xFF, 0x0200] = some [0x20, 0x04]) ∧
      (0xFFFF : Word) = (if (0xFE : Byte) = 0xFF then hiLo 0xFF 0x00 else hiLo 0xFF 0xFE + 1) ∧
      readAll pointers [hiLo 0xFF 0xFE, 0xFFFF] = some [0x00, 0x00] := by decide

theorem witness_FlagWritesTouchTheirBits :
    (setFlag .c true 0x00).getLsbD 0 = true ∧ (setFlag .n true 0x00).getLsbD 7 = true ∧ (setNZ 0x00 0xFD).getLsbD 6 = true := by
  decide

theorem witness_CompareFollowsItsPolicy :
    (-128 ≤ ((0x00 : Byte).toNat : Int) - (0x80 : Byte).toNat ∧ ((0x00 : Byte).toNat : Int) - (0x80 : Byte).toNat ≤ 127) ∧
      (-128 ≤ ((0xFF : Byte).toNat : Int) - (0x80 : Byte).toNat ∧ ((0xFF : Byte).toNat : Int) - (0x80 : Byte).toNat ≤ 127) ∧
      compareFlags true 0x80 0x00 0x00 ≠ compareFlags false 0x80 0x00 0x00 ∧
      compareFlags true 0x00 0x81 0x00 ≠ compareFlags false 0x00 0x81 0x00 := by decide

theorem witness_ExecCompletesOnLegalPairs :
    (Instr.jmp (.indirect 0xFFFF)).pairLegal = true ∧ (Instr.jmp (.indirectX 0xFF)).pairLegal = false := by decide

theorem witness_AdcAndSbcResults :
    let s := { pointers with p := 0x09 }
    let t := decimalFault { pointers with p := 0x01 }
    (readOf s (.indirectY 0xFF) = some 0x00 ∧ s.cfg.decimal = .binary ∧ flag .d s.p = true) ∧
      (readOf t (.immediate 0xFF) = some 0xFF ∧ t.cfg.decimal = .fault ∧ flag .d t.p = false) ∧
      legalPair .ADC .indirectY = true ∧ legalPair .SBC .indirectY = true ∧
      legalPair .ADC .immediate = true ∧ legalPair .SBC .immediate = true := by decide

theorem witness_DecimalFaultComesBeforeTheLoad :
    let s := decimalFault { halfServed 0x1235 with p := 0x08 }
    ptrOf s (.indirectY 0xFF) = some 0x1234 ∧ s.cfg.decimal = .fault ∧ flag .d s.p = true ∧
      readOf s (.indirectY 0xFF) = none ∧ legalPair .ADC .indirectY = true ∧ legalPair .SBC .indirectY = true := by decide

theorem witness_CompareResults :
    readOf pointers (.immediate 0x00) = some 0x00 ∧ legalPair .CMP .immediate = true ∧ legalPair .CPX .immediate = true ∧
      legalPair .CPY .immediate = true := by decide

theorem witness_LogicResults :
    readOf pointers (.indirectX 0xFF) = some 0x81 ∧ legalPair .AND .indirectX = true ∧ legalPair .ORA .indirectX = true ∧
      legalPair .EOR .indirectX = true := by decide

theorem witness_BitResult : readOf pointers (.absolute 0xFFFF) = some 0x00 ∧ legalPair .BIT .absolute = true := by decide

theorem witness_LoadResults :
    readOf pointers (.absolute 0xFFFF) = some 0x00 ∧ legalPair .LDA .absolute = true ∧ legalPair .LDX .absolute = true ∧
      legalPair .LDY .absolute = true := by decide

theorem witness_StoreResults :
    ptrOf (halfServed 0x0000) (.absolute 0x0000) = some 0 ∧ readOf (halfServed 0x0000) (.absolute 0x0000) = none ∧
      legalPair .STA .absolute = true ∧ legalPair .STX .absolute = true ∧ legalPair .STY .absolute = true := by decide

theorem witness_MemoryShiftResults :
    readOf pointers (.zeroPageX 0xFF) = some 0x34 ∧ inMemory (.zeroPageX 0xFF) = true ∧ legalPair .ASL .zeroPageX = true ∧
      legalPair .LSR .zeroPageX = true ∧ legalPair .ROL .zeroPageX = true ∧ legalPair .ROR .zeroPageX = true := by decide

theorem witness_MemoryIncrementResults :
    readOf pointers (.absoluteX 0xFFFF) = some 0x00 ∧ legalPair .INC .absoluteX = true ∧ legalPair .DEC .absoluteX = true := by
  decide

theorem witness_StackResults : readAll { pointers with sp := 0xFF } [0x0100 + zext16 (0xFF + 1)] = some [0x00] := by decide

theorem witness_JmpResult :
    (legalPair .JMP .indirect = true ∧ ptrOf pointers (.indirect 0xFFFF) = some 0x0000) ∧
      legalPair .JMP .absolute = true ∧ ptrOf pointers (.absolute 0x0000) = some 0 := by decide

theorem witness_CallAndReturnResults :
    let s := { pointers with sp := 0xFE }
    readAll s [0x0100 + zext16 (s.sp + 1), 0x0100 + zext16 (s.sp + 2)] = some [0x00, 0x00] := by decide

theorem witness_DefaultOpcodeStep :
    let s := codeAt 0xFFFF [0x02]
    s.halted = false ∧ admitted s.cfg.table = true ∧ portAnswer s s.pc = some 0x02 ∧ s.cfg.table[(0x02 : Byte).toNat]? = some defaultEntry := by decide

theorem witness_NmosTrapResults :
    let s := nmos { pointers with sp := 0xFD }
    s.cfg.stubs = .nmos ∧ readAll s [0xFFFE, 0xFFFF] = some [0x00, 0x00] ∧
      readAll s [0x0100 + zext16 (s.sp + 1), 0x0100 + zext16 (s.sp + 2), 0x0100 + zext16 (s.sp + 3)] =
        some [0x02, 0x00, 0x00] := by decide

theorem witness_StubsHaltTheMachine : State.reset.cfg.stubs = .fault := rfl

theorem witness_UnservedOperandHalts :
    let i := Instr.adc (.indirectY 0xFF)
    let s := { halfServed 0x1235 with p := 0x08 }
    let u := nmos { pointers with sp := 0xFE }
    (i.pairLegal = true ∧ loadsOperand i = true ∧ inMemory i.operand = true ∧ ptrOf s i.operand = some 0x1234 ∧
      (pointer s i.operand).map (fun x => portAnswer x.2 (effAddr s i.operand x.1)) = some none ∧
      i.mnemonic ∈ [.ADC, .SBC] ∧ s.cfg.decimal = .binary) ∧
    (portAnswer (unservedAt 0x01FF u) (stackAddr (u.sp + 1)) = none ∧ Instr.plp ∈ [.pla, .plp, .rts]) ∧
    lastOf (unservedAt 0x0100 u) [stackAddr (u.sp + 1)] (stackAddr (u.sp + 2)) = some none ∧
    lastOf (unservedAt 0x0101 u) [stackAddr (u.sp + 1), stackAddr (u.sp + 2)] (stackAddr (u.sp + 3)) = some none ∧
    (u.cfg.stubs = .nmos ∧ portAnswer (unservedAt 0xFFFE u) 0xFFFE = none ∧
      lastOf (unservedAt 0xFFFF u) [0xFFFE] 0xFFFF = some none) := by decide

theorem witness_UnservedPointerHalts :
    let i := Instr.sta (.indirectY 0xFF)
    i.pairLegal = true ∧ ptrAddrs pointers i.operand = [0x00FF, 0x0000] ∧
      portAnswer (halfServed 0xFF) 0x00FF = none ∧ lastOf (halfServed 0x00) [0x00FF] 0x0000 = some none := by decide

theorem witness_OnlyWritersChangeFlags :
    got State.p (exec (.lda (.immediate 0x80)) pointers) = some 0x80 ∧ (∀ f, f = .c ∨ f = .i → Mnemonic.LDA ∉ flagWriters f) ∧
      Mnemonic.LDA ∉ [.PLP, .RTI] := by
  refine ⟨by decide, ?_, by decide⟩
  rintro f (rfl | rfl) <;> decide

theorem witness_OnlyWritersChangeRegisters :
    got State.pc (exec (.bne 0x80) pointers) = some 0x0182 ∧ writesA (.bne 0x80) = false ∧ writesX (.bne 0x80) = false ∧
      writesY (.bne 0x80) = false ∧ writesSP (.bne 0x80) = false ∧ writesA (.asl (.zeroPage 0x10)) = false := by decide

theorem witness_OnlyStoredBytesChange :
    let s := { pointers with a := 0x5A }
    got (peek · 0x1235) (exec (.sta (.indirectY 0xFF)) s) = some 0x5A ∧
      storedAddrs (.sta (.indirectY 0xFF)) s = [0x1235] ∧ kindAt s.cfg.map 0x1235 ≠ .device ∧
      storedAddrs (.lda (.indirectY 0xFF)) pointers = [] := by decide

theorem witness_ExecCompletesOrTakesAFault :
    got (fun t => (t.halted, t.cyc)) (exec (.bne 0x80) pointers) = some (false, 2) ∧ got State.halted (exec .brk pointers) = some true := by
  decide

theorem witness_WrittenByteReadsBack :
    let s := { pointers with cfg := { configStd with map := [⟨0x3000, 1, .gap⟩, ⟨0x4000, 1, .readOnly⟩] } }
    Memory.wf s.mem = true ∧ kindAt s.cfg.map 0xFFFF = .plain ∧ kindAt s.cfg.map 0x3000 = .gap ∧
      kindAt s.cfg.map 0x4000 ≠ .plain := by decide

theorem witness_RtsReturnsAfterJsr :
    let s := { pointers with sp := 0x00 }
    Memory.wf s.mem = true ∧ kindAt s.cfg.map (stackAddr s.sp) = .plain ∧ kindAt s.cfg.map (stackAddr (s.sp - 1)) = .plain ∧
      got State.pc (exec (.jsr 0xFFFF) s) = some 0xFFFF := by decide

theorem witness_PullUndoesPush :
    let s := { pointers with sp := 0x00 }
    Memory.wf s.mem = true ∧ kindAt s.cfg.map (stackAddr s.sp) = .plain ∧ got State.sp (exec .pha s) = some 0xFF ∧
      got State.sp (exec .php s) = some 0xFF := by decide

theorem witness_InterruptAndDecimalBitsGateNothing :
    Mnemonic.ADC ∉ [.CLI, .SEI, .CLD, .SED, .PHP, .PLP, .BRK, .RTI] ∧ pointers.cfg.decimal = .binary ∧
      got State.a (exec (.adc (.immediate 0x09)) { pointers with a := 0x01, p := 0x08 }) = some 0x0A := by decide

theorem witness_TransactionsFollowTheMap :
    let s := { codeAt 0xFFFF [0xAD, 0x00, 0x30] with cfg := { configStd with map := [⟨0x3000, 1, .gap⟩] } }
    let t := unservedAt 0x3000 (code [0xAD, 0x00, 0x30])
    (s.halted = false ∧ got State.bus (step s) = some
      [.rd 0xFFFF (some 0xAD), .rd 0x0000 (some 0x00), .rd 0x0001 (some 0x30), .rd 0x3000 (some 0x00)]) ∧
    (t.halted = false ∧ (got State.bus (step t)).map List.getLast? = some (some (.rd 0x3000 none))) := by decide


end Sys2Proof.Tests
end

/-! ### Decoding with an admitted table (R74, R80): every opcode has an instruction -/

namespace Sys2Proof

/-- As many bytes as a mode asks for (R72) are an operand of that mode, and none is left. -/
theorem operandOf_of_length {md : Mode} {bs : List Byte} (h : bs.length = modeBytes md) :
    ∃ o, operandOf md bs = some (o, []) ∧ o.mode = md := by
  cases md with
  | implicit | accumulator =>
    obtain rfl := List.length_eq_zero_iff.mp h
    exact ⟨_, rfl, rfl⟩
  | immediate | zeroPage | zeroPageX | zeroPageY | indirectX | indirectY | relative =>
    obtain ⟨b, rfl⟩ := List.length_eq_one_iff.mp h
    exact ⟨_, rfl, rfl⟩
  | absolute | absoluteX | absoluteY | indirect =>
    obtain ⟨lo, hi, rfl⟩ := List.length_eq_two.mp h
    exact ⟨_, rfl, rfl⟩

/-- A mnemonic that R79 pairs with one mode alone takes operands of that mode. -/
theorem mode_of_legalPair {m : Mnemonic} {md md' : Mode} {op : Byte} {n : Nat} (hp : pairs m = [(md, op, n)])
    (h : legalPair m md' = true) : md = md' := by
  simpa [legalPair, hp] using h

theorem Operand.eq_implicit {o : Operand} (h : .implicit = o.mode) : o = .implicit := by
  cases o with
  | implicit => rfl
  | _ => cases h

theorem Operand.eq_relative {o : Operand} (h : .relative = o.mode) : ∃ off, o = .relative off := by
  cases o with
  | relative off => exact ⟨off, rfl⟩
  | _ => cases h

theorem Operand.eq_absolute {o : Operand} (h : .absolute = o.mode) : ∃ w, o = .absolute w := by
  cases o with
  | absolute w => exact ⟨w, rfl⟩
  | _ => cases h

/-- A legal pair has an instruction, with that mnemonic and that operand. -/
theorem shapeOf_of_legalPair {m : Mnemonic} {o : Operand} (h : legalPair m o.mode = true) :
    ∃ i, shapeOf m o = some i ∧ i.mnemonic = m ∧ i.operand = o := by
  cases m with
  | BCC | BCS | BEQ | BMI | BNE | BPL | BVC | BVS =>
    obtain ⟨off, rfl⟩ := Operand.eq_relative (mode_of_legalPair rfl h)
    exact ⟨_, rfl, rfl, rfl⟩
  | JSR =>
    obtain ⟨w, rfl⟩ := Operand.eq_absolute (mode_of_legalPair rfl h)
    exact ⟨_, rfl, rfl, rfl⟩
  | BRK | CLC | CLD | CLI | CLV | DEX | DEY | INX | INY | NOP | PHA | PHP | PLA | PLP | RTI | RTS | SEC | SED | SEI
  | TAX | TAY | TSX | TXA | TXS | TYA =>
    obtain rfl := Operand.eq_implicit (mode_of_legalPair rfl h)
    exact ⟨_, rfl, rfl, rfl⟩
  | _ => exact ⟨_, rfl, rfl, rfl⟩

/-- An entry that passes the check of R80 makes a legal instruction of its operand. -/
theorem instrOfEntry_of_entryOk {e : Entry} {o : Operand} (he : entryOk e = true) (ho : o.mode = e.mode) (op : Byte) :
    ∃ i, instrOfEntry e op o = some i ∧ i.pairLegal = true := by
  unfold instrOfEntry
  split
  · exact ⟨.dflt op, rfl, rfl⟩
  · have hl : legalPair e.mnemonic o.mode = true := by
      simp only [entryOk, Bool.and_eq_true] at he
      rw [ho]
      exact he.1.1
    obtain ⟨i, hi, hm, hop⟩ := shapeOf_of_legalPair hl
    refine ⟨i, (if_pos hl).trans hi, ?_⟩
    rw [Instr.pairLegal, hm, hop]
    exact hl

/-- An entry that passes the check of R80 decodes with the bytes its mode asks for. -/
theorem decodeEntry_of_entryOk {e : Entry} {bs : List Byte} (he : entryOk e = true) (hb : bs.length = modeBytes e.mode)
    (op : Byte) : ∃ i, decodeEntry e op bs = .ok (i, []) ∧ i.pairLegal = true := by
  obtain ⟨o, ho, hmode⟩ := operandOf_of_length hb
  obtain ⟨i, hi, hl⟩ := instrOfEntry_of_entryOk he hmode op
  refine ⟨i, ?_, hl⟩
  simp only [decodeEntry, ho, hi]

end Sys2Proof

namespace Sys2Proof.Machine

theorem readBytes_length {n : Nat} {a : Word} {s t : State} {bs : List Byte} (h : readBytes n a s = .ok bs t) :
    bs.length = n := by
  induction n generalizing a s t bs with
  | zero => cases h; rfl
  | succ n ih =>
    obtain ⟨b, u, -, h⟩ := Res.bind_eq_ok.mp h
    obtain ⟨bs', v, hbs, h⟩ := Res.bind_eq_ok.mp h
    cases h
    rw [List.length_cons, ih hbs]

/-- With an admitted table a fetch that no ERR stops gives a legal instruction (R74). -/
theorem fetch_of_admitted {s t : State} {r : Option (Entry × Instr)} (ha : admitted s.cfg.table = true)
    (h : fetch s = .ok r t) : ∃ e i, r = some (e, i) ∧ i.pairLegal = true := by
  obtain ⟨op, u, hop, h⟩ := Res.bind_eq_ok.mp h
  obtain ⟨-, rfl⟩ := readByte_eq_ok.mp hop
  obtain ⟨e, he, hok⟩ := entry_of_admitted ha op
  simp only [logRead_cfg, he] at h
  obtain ⟨bs, v, hbs, h⟩ := Res.bind_eq_ok.mp h
  obtain ⟨i, hi, hl⟩ := decodeEntry_of_entryOk hok (readBytes_length hbs) op
  simp only [hi] at h
  cases h
  exact ⟨e, i, rfl, hl⟩

/-- A legal instruction is never refused: it completes or takes a fault. -/
theorem exec_next_of_legal {i : Instr} (h : i.pairLegal = true) (s : State) : ∃ t, exec i s = .next t := by
  rw [exec_of_legal h]
  split <;> exact ⟨_, rfl⟩

theorem runStep_next_of_admitted {s : State} (ha : admitted s.cfg.table = true) : ∃ t, runStep s = .next t := by
  unfold runStep
  cases hf : fetch s.clearBus with
  | fail f a t => exact ⟨_, rfl⟩
  | ok r t =>
    obtain ⟨e, i, rfl, hl⟩ := fetch_of_admitted (s := s.clearBus) ha hf
    obtain ⟨u, hu⟩ := exec_next_of_legal hl t
    exact ⟨chargeBase e.base u, by simp only [hu, afterExec]⟩

/-! ### What every step keeps -/

/-- What every primitive update keeps: the canonical form of memory, the parameters and the run state; CYC never falls. -/
structure KeepsRunState (s t : State) : Prop where
  mem : Memory.wf s.mem = true → Memory.wf t.mem = true
  cfg : t.cfg = s.cfg
  halted : t.halted = s.halted
  fault : t.fault = s.fault
  faultAddr : t.faultAddr = s.faultAddr
  cyc : s.cyc ≤ t.cyc

theorem KeepsRunState.refl (s : State) : KeepsRunState s s := ⟨id, rfl, rfl, rfl, rfl, le_rfl⟩

theorem KeepsRunState.trans {s t u : State} (h : KeepsRunState s t) (g : KeepsRunState t u) : KeepsRunState s u :=
  ⟨g.mem ∘ h.mem, g.cfg.trans h.cfg, g.halted.trans h.halted, g.fault.trans h.fault, g.faultAddr.trans h.faultAddr,
    h.cyc.trans g.cyc⟩

theorem closed_keepsRunState : Closed KeepsRunState where
  refl := .refl
  trans := .trans
  setA _ _ := ⟨id, rfl, rfl, rfl, rfl, le_rfl⟩
  setX _ _ := ⟨id, rfl, rfl, rfl, rfl, le_rfl⟩
  setY _ _ := ⟨id, rfl, rfl, rfl, rfl, le_rfl⟩
  setSP _ _ := ⟨id, rfl, rfl, rfl, rfl, le_rfl⟩
  setP _ _ := ⟨id, rfl, rfl, rfl, rfl, le_rfl⟩
  setPC _ _ := ⟨id, rfl, rfl, rfl, rfl, le_rfl⟩
  addCyc _ _ := ⟨id, rfl, rfl, rfl, rfl, Nat.le_add_right _ _⟩
  logRead _ _ := ⟨id, rfl, rfl, rfl, rfl, le_rfl⟩
  writeByte _ _ _ := ⟨writeByte_mem_wf, rfl, rfl, rfl, rfl, le_rfl⟩

/-- What a step leaves of the run state: all of it, or a fault taken after updates that kept it. -/
theorem runStep_runState {s t : State} (h : runStep s = .next t) :
    KeepsRunState s t ∨ ∃ f a u v, KeepsRunState s v ∧ t = takeFault u f a v := by
  have h0 : KeepsRunState s s.clearBus := ⟨id, rfl, rfl, rfl, rfl, le_rfl⟩
  rcases runStep_inversion closed_keepsRunState h with hk | ⟨f, a, u, v, hu, hv, rfl⟩
  · exact .inl (h0.trans hk)
  · exact .inr ⟨f, a, u, v, h0.trans (hu.trans hv), rfl⟩

theorem runStep_cfg {s t : State} (h : runStep s = .next t) : t.cfg = s.cfg := by
  rcases runStep_runState h with hk | ⟨f, a, u, v, hv, rfl⟩
  · exact hk.cfg
  · exact hv.cfg

/-- Settles O14: an admitted table decodes every opcode to a legal instruction, which is never refused; the second clause
is the order of the table's check in `step`, `hostReset` and `cfgTable` (R315). -/
theorem everyStepAnswersNext : Obligations.EveryStepAnswersNext := by
  intro s
  refine ⟨fun ha => ?_, fun hn => ⟨fun c => if_neg (by simp [hn]), fun i => withTable_of_not_admitted hn _,
    step_of_not_admitted hn, by rw [stepAck, step_of_not_admitted hn]⟩⟩
  cases hh : s.halted with
  | true => exact ⟨s, step_of_halted ha hh, rfl⟩
  | false =>
    obtain ⟨t, ht⟩ := runStep_next_of_admitted ha
    exact ⟨t, (step_of_running ha hh).trans ht, runStep_cfg ht⟩

/-- Settles O17: the primitive updates keep the invariant's parts, and a fault taken sets HALTED and FAULT together. -/
theorem stepKeepsInvariant : Obligations.StepKeepsInvariant := by
  intro s t ⟨hmem, hcfg, hhalt, haddr⟩ hs
  rcases (step_eq_next hs).2 with ⟨-, rfl⟩ | ⟨-, hr⟩
  · exact ⟨hmem, hcfg, hhalt, haddr⟩
  · rcases runStep_runState hr with hk | ⟨f, a, u, v, hv, rfl⟩
    · exact ⟨hk.mem hmem, by rwa [hk.cfg], by rw [hk.halted, hk.fault, hhalt], by rwa [hk.fault, hk.faultAddr]⟩
    · exact ⟨hv.mem hmem, (congrArg Config.wf hv.cfg).trans hcfg, rfl, nofun⟩

/-- Settles O13: a step that is run keeps HALTED at 0 and lets CYC grow, or takes a fault, which sets HALTED and FAULT. -/
theorem ackReportsTheStep : Obligations.AckReportsTheStep := by
  intro s t hrun hs
  have hack : stepAck s = some (if t.halted then .fault (faultCode t.fault) else .ok (t.cyc - s.cyc)) := by
    simp only [stepAck, hs, hrun, Bool.false_eq_true, if_false]
  have hr : runStep s = .next t := by
    rcases (step_eq_next hs).2 with ⟨hh, -⟩ | ⟨-, hr⟩
    · rw [hrun] at hh; cases hh
    · exact hr
  rcases runStep_runState hr with hk | ⟨f, a, u, v, -, rfl⟩
  · have ht : t.halted = false := hk.halted.trans hrun
    rw [ht] at hack ⊢
    exact ⟨fun _ => ⟨hk.cyc, hack⟩, nofun⟩
  · exact ⟨nofun, fun _ => ⟨f, rfl, hack⟩⟩

end Sys2Proof.Machine

/-! ### The flags bit by bit (R25, R26), and the decimal fault (R29) -/

namespace Sys2Proof.Machine

/-- One bit of P after `SetNZ` (R8). -/
theorem setNZ_bit (v p : Byte) {k : Nat} (hk : k < 8) :
    (setNZ v p).getLsbD k = if k = 1 then v == 0 else if k = 7 then v.getLsbD 7 else p.getLsbD k := by
  unfold setNZ
  rw [setFlag_bit _ _ _ hk, setFlag_bit _ _ _ hk]
  rfl

/-- Settles O25, from the single bits after `setFlag` and `setNZ`. -/
theorem flagWritesTouchTheirBits : Obligations.FlagWritesTouchTheirBits := by
  refine ⟨fun f b p k hk => setFlag_bit f b p hk, fun v p => ⟨setNZ_bit v p (k := 7) (by decide), ?_, fun k hk h1 => ?_⟩⟩
  · have hz : (v == 0) = decide (v.toNat = 0) := by
      simp only [beq_eq_decide, ← BitVec.toNat_inj]
      rfl
    exact (setNZ_bit v p (k := 1) (by decide)).trans hz
  · rw [setNZ_bit v p (by omega), if_neg h1, if_neg (by omega)]

/-- ADC and SBC under the fault policy with P.D set: the fault is taken with the pointer reads alone made (R29, R304). -/
theorem run_addInto_decimal {m : Mnemonic} {o : Operand} {s t : State} {ptr : Word} (hl : legalPair m o.mode = true)
    (hp : pointer s o = some (ptr, t)) (hpol : s.cfg.decimal = .fault) (hd : flag .d s.p = true) (invert : Bool) :
    run m o (addInto invert) s = .next (haltedBy s .unsupportedDecimal s.pc t) := by
  have ht := state_of_pointer hp
  have hcheck : decimalCheck (ctxOf s o ptr) (resolved s o t) = .fail .unsupportedDecimal s.pc (resolved s o t) := by
    rw [ht]
    exact if_pos ⟨hpol, hd⟩
  have hb : (resolve o s).bind (addInto invert) = .fail .unsupportedDecimal s.pc (resolved s o t) := by
    rw [resolve_of_pointer hp, Res.bind_ok, addInto, hcheck, Res.bind_fail]
  rw [run_of_legal hl, hb]
  exact congrArg Host.Outcome.next
    (takeFault_eq_haltedBy (t := resolved s o t) (show t.mem = s.mem by rw [ht]) (cfg_of_pointer hp :) _ _)

/-- Settles O32: both instructions are one routine, whose support check stands between the resolver and the load. -/
theorem decimalFaultComesBeforeTheLoad : Obligations.DecimalFaultComesBeforeTheLoad :=
  fun _ _ _ _ hp hpol hd =>
    ⟨fun hl => run_addInto_decimal hl hp hpol hd false, fun hl => run_addInto_decimal hl hp hpol hd true⟩

end Sys2Proof.Machine

/-! ### Who writes the registers and the flags (R21 to R28) -/

namespace Sys2Proof.Machine

/-- The writers of a flag (R28). -/
def writesFlag (f : Flag) (i : Instr) : Bool := i.mnemonic ∈ flagWriters f

/-- The writers of all eight bits of P (R27). -/
def writesP (i : Instr) : Bool := i.mnemonic ∈ [.PLP, .RTI]

/-- A part `π` of the state that an instruction may not write: no update of PC, of CYC or of memory changes it, and neither
does an update of a register or a flag of which the instruction is a listed writer. -/
structure Spared {α : Type} (i : Instr) (π : State → α) : Prop where
  setPC : ∀ w s, π (s.setPC w) = π s := by intros; rfl
  addCyc : ∀ n s, π (s.addCyc n) = π s := by intros; rfl
  logRead : ∀ a s, π (s.logRead a) = π s := by intros; rfl
  writeByte : ∀ a v s, π (writeByte a v s) = π s := by intros; rfl
  takeFault : ∀ s f a u, π (takeFault s f a u) = π s := by intros; rfl
  setA : writesA i = true → ∀ v s, π (s.setA v) = π s := by intros; rfl
  setX : writesX i = true → ∀ v s, π (s.setX v) = π s := by intros; rfl
  setY : writesY i = true → ∀ v s, π (s.setY v) = π s := by intros; rfl
  setSP : writesSP i = true → ∀ v s, π (s.setSP v) = π s := by intros; rfl
  setP : writesP i = true → ∀ v s, π (s.setP v) = π s := by intros; rfl
  setFlag : ∀ f, writesFlag f i = true → ∀ b q s, π (s.setP q) = π s → π (s.setP (setFlag f b q)) = π s := by
    intros; rfl

theorem store_p (c : Ctx) (v : Byte) (s : State) : (store c v s).p = s.p := by
  unfold store
  split <;> rfl

theorem bind_spares {α β γ : Type} {π : State → α} {s : State} {r : Res β} {k : β → State → Res γ} (hr : π r.state = π s)
    (hk : ∀ v t, π (k v t).state = π t) : π (r.bind k).state = π s := by
  cases r with
  | ok v t => exact (hk v t).trans hr
  | fail f a t => exact hr

theorem branch_spares {α : Type} (π : State → α) (b : Bool) (c : Ctx) (s : State) : π (branch b c s).state = π s := by
  unfold Machine.branch
  split <;> rfl

section
variable {α : Type} {i : Instr} {π : State → α} (h : Spared i π)
include h

theorem Spared.readByte (a : Word) (s : State) : π (readByte a s).state = π s := by
  rw [readByte_state]
  exact h.logRead a s

theorem Spared.resolve (o : Operand) (s : State) : π (resolve o s).state = π s := by
  have hpc := h.setPC (s.pc + BitVec.ofNat 16 (1 + modeBytes o.mode)) s
  have hpair : ∀ {a : Word} {next : State → Word} {k : Byte → Byte → State → Ctx} (t : State), π t = π s →
      π ((Machine.readByte a t).bind fun lo t => (Machine.readByte (next t) t).bind fun hi t => .ok (k lo hi t) t).state
        = π s := fun t ht =>
    bind_spares ((h.readByte _ t).trans ht) fun _ _ => bind_spares (h.readByte _ _) fun _ _ => rfl
  cases o with
  | indirectX _ | indirectY _ | indirect _ => exact hpair _ hpc
  | _ => exact hpc

theorem Spared.load (c : Ctx) (s : State) : π (load c s).state = π s := by
  unfold Machine.load
  cases c.mode with
  | accumulator | immediate | implicit | relative | indirect => rfl
  | _ => exact h.readByte _ s

theorem Spared.store {c : Ctx} (hA : c.mode = .accumulator → writesA i = true) (v : Byte) (s : State) :
    π (store c v s) = π s := by
  unfold Machine.store
  cases hm : c.mode with
  | accumulator => exact h.setA (hA hm) v s
  | immediate | implicit | relative | indirect => rfl
  | _ => exact h.writeByte _ v s

theorem Spared.push (hsp : writesSP i = true) (v : Byte) (s : State) : π (push v s) = π s :=
  (h.setSP hsp _ _).trans (h.writeByte _ _ _)

theorem Spared.pull (hsp : writesSP i = true) (s : State) : π (pull s).state = π s :=
  (h.readByte _ _).trans (h.setSP hsp _ _)

theorem Spared.setNZ (hn : writesFlag .n i = true) (v : Byte) {q : Byte} {s : State} (hq : π (s.setP q) = π s) :
    π (s.setP (setNZ v q)) = π s := h.setFlag .z hn _ _ s (h.setFlag .n hn _ _ s hq)

theorem Spared.updateA (ha : writesA i = true) (hn : writesFlag .n i = true) (v : Byte) (s : State) :
    π (s.updateA v) = π s := (h.setNZ hn v rfl).trans (h.setA ha v s)

theorem Spared.updateX (hx : writesX i = true) (hn : writesFlag .n i = true) (v : Byte) (s : State) :
    π (s.updateX v) = π s := (h.setNZ hn v rfl).trans (h.setX hx v s)

theorem Spared.updateY (hy : writesY i = true) (hn : writesFlag .n i = true) (v : Byte) (s : State) :
    π (s.updateY v) = π s := (h.setNZ hn v rfl).trans (h.setY hy v s)

theorem Spared.shiftFlags (hc : writesFlag .c i = true) (hn : writesFlag .n i = true) (r : Shifted) (s : State) :
    π (s.setP (shiftFlags r s.p)) = π s := h.setNZ hn _ (h.setFlag .c hc _ _ s rfl)

theorem Spared.adderFlags (hc : writesFlag .c i = true) (hv : writesFlag .v i = true) (hn : writesFlag .n i = true)
    (out : Byte × Bool × Bool) (s : State) : π (s.setP (adderFlags out s.p)) = π s :=
  h.setNZ hn _ (h.setFlag .v hv _ _ s (h.setFlag .c hc _ _ s rfl))

theorem Spared.compareWith (hc : writesFlag .c i = true) (hn : writesFlag .n i = true) (reg : State → Byte) (m : Byte)
    (s : State) : π (compareWith reg m s) = π s :=
  h.setFlag .n hn _ _ s (h.setFlag .c hc _ _ s (h.setFlag .z hn _ _ s rfl))

theorem Spared.bitFlags (hv : writesFlag .v i = true) (hn : writesFlag .n i = true) (a m : Byte) (s : State) :
    π (s.setP (bitFlags a m s.p)) = π s :=
  h.setFlag .v hv _ _ s (h.setFlag .n hn _ _ s (h.setFlag .z hn _ _ s rfl))

theorem Spared.readInto {f : Byte → State → State} (hf : ∀ v s, π (f v s) = π s) (c : Ctx) (s : State) :
    π (readInto f c s).state = π s := bind_spares (h.load c s) hf

theorem Spared.modify {f g : State → Byte → Byte} {c : Ctx} (hA : c.mode = .accumulator → writesA i = true)
    (hg : ∀ s m t, t.p = s.p → π (t.setP (g s m)) = π t) (s : State) : π (modify f g c s).state = π s :=
  bind_spares (h.load c s) fun m t => (hg t m _ (store_p c _ t)).trans (h.store hA _ t)

theorem Spared.addInto (ha : writesA i = true) (hc : writesFlag .c i = true) (hv : writesFlag .v i = true)
    (hn : writesFlag .n i = true) (invert : Bool) (c : Ctx) (s : State) : π (addInto invert c s).state = π s := by
  refine bind_spares ?_ fun _ t => bind_spares (h.load c t) fun m u => ?_
  · unfold decimalCheck
    split <;> rfl
  · exact (h.adderFlags hc hv hn _ (u.setA _)).trans (h.setA ha _ u)

theorem Spared.trapEntry (hsp : writesSP i = true) (hi : writesFlag .i i = true) (s : State) :
    π (trapEntry s).state = π s := by
  refine bind_spares (h.readByte _ s) fun lo t => bind_spares (h.readByte _ t) fun hi' u => ?_
  have hpush : ∀ a b c, π (Machine.push a (Machine.push b (Machine.push c u))) = π u := fun _ _ _ =>
    (h.push hsp _ _).trans ((h.push hsp _ _).trans (h.push hsp _ _))
  exact (h.setPC _ _).trans ((h.setFlag .i hi _ _ _ rfl).trans (hpush _ _ _))

theorem Spared.trapReturn (hsp : writesSP i = true) (hp : writesP i = true) (s : State) :
    π (trapReturn s).state = π s :=
  bind_spares (h.pull hsp s) fun _ _ => bind_spares ((h.pull hsp _).trans (h.setP hp _ _)) fun _ _ =>
    bind_spares (h.pull hsp _) fun _ _ => h.setPC _ _

theorem Spared.breakTrap (hsp : writesSP i = true) (hi : writesFlag .i i = true) (c : Ctx) (s : State) :
    π (breakTrap c s).state = π s := by
  unfold Machine.breakTrap
  split
  · rfl
  · exact bind_spares (h.trapEntry hsp hi s) fun _ _ => rfl

theorem Spared.breakReturn (hsp : writesSP i = true) (hp : writesP i = true) (c : Ctx) (s : State) :
    π (breakReturn c s).state = π s := by
  unfold Machine.breakReturn
  split
  · rfl
  · exact bind_spares (h.trapReturn hsp hp s) fun _ _ => rfl

/-- A routine leaves what its instruction may not write. -/
theorem Spared.routineOf {c : Ctx} (hA : c.mode = .accumulator → writesA i = true) (s : State) :
    π (routineOf i c s).state = π s := by
  cases i with
  | adc _ | sbc _ => exact h.addInto rfl rfl rfl rfl _ _ _
  | cmp _ | cpx _ | cpy _ => exact h.readInto (h.compareWith rfl rfl _) _ _
  | and _ | ora _ | eor _ => exact h.readInto (fun _ _ => h.updateA rfl rfl _ _) _ _
  | bit _ => exact h.readInto (fun _ _ => h.bitFlags rfl rfl _ _ _) _ _
  | asl _ | lsr _ | rol _ | ror _ => exact h.modify hA (fun _ _ t ht => ht ▸ h.shiftFlags rfl rfl _ t) _
  | inc _ | dec _ => exact h.modify hA (fun _ _ t ht => ht ▸ h.setNZ rfl _ rfl) _
  | inx | dex | tax | tsx => exact h.updateX rfl rfl _ _
  | iny | dey | tay => exact h.updateY rfl rfl _ _
  | txa | tya => exact h.updateA rfl rfl _ _
  | lda _ => exact h.readInto (h.updateA rfl rfl) _ _
  | ldx _ => exact h.readInto (h.updateX rfl rfl) _ _
  | ldy _ => exact h.readInto (h.updateY rfl rfl) _ _
  | sta _ | stx _ | sty _ => exact h.store hA _ _
  | txs => exact h.setSP rfl _ _
  | pha | php => exact h.push rfl _ _
  | pla => exact bind_spares (h.pull rfl _) fun _ _ => h.updateA rfl rfl _ _
  | plp => exact bind_spares (h.pull rfl _) fun _ _ => h.setP rfl _ _
  | jmp _ => exact h.setPC _ _
  | jsr _ => exact (h.setPC _ _).trans ((h.push rfl _ _).trans (h.push rfl _ _))
  | rts => exact bind_spares (h.pull rfl _) fun _ _ => bind_spares (h.pull rfl _) fun _ _ => h.setPC _ _
  | bcc _ | bcs _ | beq _ | bne _ | bmi _ | bpl _ | bvc _ | bvs _ => exact branch_spares π _ _ _
  | clc | sec => exact h.setFlag .c rfl _ _ s rfl
  | cli | sei => exact h.setFlag .i rfl _ _ s rfl
  | cld | sed => exact h.setFlag .d rfl _ _ s rfl
  | clv => exact h.setFlag .v rfl _ _ s rfl
  | nop | dflt _ => rfl
  | brk => exact h.breakTrap rfl rfl _ _
  | rti => exact h.breakReturn rfl rfl _ _

end

/-- R79 pairs the Accumulator mode with the shifts and rotates alone. -/
theorem shift_of_legalPair_accumulator {m : Mnemonic} (h : legalPair m .accumulator = true) :
    m ∈ [.ASL, .LSR, .ROL, .ROR] := by
  revert h
  cases m <;> decide

/-- A legal instruction of Accumulator mode is a writer of A (R21). -/
theorem writesA_of_accumulator {i : Instr} (hl : i.pairLegal = true) (ha : i.operand.mode = .accumulator) :
    writesA i = true := by
  rw [Instr.pairLegal, ha] at hl
  simp only [writesA, shift_of_legalPair_accumulator hl, ha, decide_true, beq_self_eq_true, Bool.and_self, Bool.or_true]

/-- An instruction leaves what it may not write, whether it completes or takes a fault. -/
theorem Spared.exec {α : Type} {i : Instr} {π : State → α} (h : Spared i π) {s t : State} (he : exec i s = .next t) :
    π t = π s := by
  cases hl : i.pairLegal with
  | false => rw [exec_of_illegal hl] at he; cases he
  | true =>
    rw [exec_of_legal hl] at he
    split at he
    · rename_i c u hb
      cases he
      obtain ⟨c₀, u₀, h₀, hr⟩ := Res.bind_eq_ok.mp hb
      have hA : c₀.mode = .accumulator → writesA i = true := fun ha =>
        writesA_of_accumulator hl ((resolve_ctx h₀).1.symm.trans ha)
      have hres : π u₀ = π s := by simpa [h₀] using h.resolve i.operand s
      have hrout : π u = π u₀ := by simpa [hr] using h.routineOf hA u₀
      exact (h.addCyc _ _).trans ((h.setPC _ _).trans (hrout.trans hres))
    · cases he
      exact h.takeFault _ _ _ _

section
variable {i : Instr}

theorem spared_a (hi : writesA i = false) : Spared i State.a where
  setA ha := by rw [hi] at ha; cases ha

theorem spared_x (hi : writesX i = false) : Spared i State.x where
  setX hx := by rw [hi] at hx; cases hx

theorem spared_y (hi : writesY i = false) : Spared i State.y where
  setY hy := by rw [hi] at hy; cases hy

theorem spared_sp (hi : writesSP i = false) : Spared i State.sp where
  setSP hsp := by rw [hi] at hsp; cases hsp

/-- A bit of P, for an instruction that writes neither all of P nor a flag at that bit. -/
theorem spared_bit {k : Nat} (hk : k < 8) (hp : writesP i = false) (hf : ∀ f, writesFlag f i = true → k ≠ f.bit) :
    Spared i fun s => s.p.getLsbD k where
  setP h := by rw [hp] at h; cases h
  setFlag f h b q _ hq := ((setFlag_bit f b q hk).trans (if_neg (hf f h))).trans hq

end

/-- The writers of all of P are writers of every flag. -/
theorem writesP_of_not_writesFlag {i : Instr} {f : Flag} (h : i.mnemonic ∉ flagWriters f) : writesP i = false := by
  have hall : ∀ m ∈ [Mnemonic.PLP, .RTI], m ∈ flagWriters f := by cases f <;> decide
  exact decide_eq_false fun hm => h (hall _ hm)

theorem Flag.bit_inj {f g : Flag} (h : f.bit = g.bit) : f = g := by
  revert h
  cases f <;> cases g <;> decide

/-- Settles O53: each register is spared by the instructions that are not among its writers. -/
theorem onlyWritersChangeRegisters : Obligations.OnlyWritersChangeRegisters := fun _ _ _ he =>
  ⟨fun hi => (spared_a hi).exec he, fun hi => (spared_x hi).exec he, fun hi => (spared_y hi).exec he,
    fun hi => (spared_sp hi).exec he⟩

/-- Settles O52: each bit of P is spared by the instructions that are not among the writers of its flag, or of all of P. -/
theorem onlyWritersChangeFlags : Obligations.OnlyWritersChangeFlags := by
  intro i s t he
  refine ⟨fun f hf => ?_, fun hp => ?_⟩
  · have hother : ∀ g, writesFlag g i = true → f.bit ≠ g.bit := fun g hg hfg =>
      hf (Flag.bit_inj hfg ▸ of_decide_eq_true hg)
    exact (spared_bit f.bit_lt (writesP_of_not_writesFlag hf) hother).exec he
  · have h4 : ∀ g, writesFlag g i = true → 4 ≠ g.bit := fun g _ => by cases g <;> decide
    have h5 : ∀ g, writesFlag g i = true → 5 ≠ g.bit := fun g _ => by cases g <;> decide
    exact ⟨(spared_bit (by decide) (decide_eq_false hp) h4).exec he,
      (spared_bit (by decide) (decide_eq_false hp) h5).exec he⟩

end Sys2Proof.Machine

/-! ### The flags that gate nothing: P.I, and P.D under the binary policy (R29, R30) -/

namespace Sys2Proof.Machine

/-- P with one flag the other way. -/
def flipFlag (g : Flag) (p : Byte) : Byte := p ^^^ ((1 : Byte) <<< g.bit)

theorem flipFlag_bit (g : Flag) (p : Byte) {k : Nat} (hk : k < 8) :
    (flipFlag g p).getLsbD k = (p.getLsbD k ^^ decide (k = g.bit)) := by
  have h1 : ((1 : Byte) <<< g.bit).getLsbD k = decide (k = g.bit) := by
    revert hk k
    cases g <;> decide
  rw [flipFlag, BitVec.getLsbD_xor, h1]

/-- The other flags are read as before. -/
theorem flag_flipFlag {f g : Flag} (h : f ≠ g) (p : Byte) : flag f (flipFlag g p) = flag f p := by
  have hbit : f.bit ≠ g.bit := fun e => h (Flag.bit_inj e)
  unfold flag
  rw [flipFlag_bit g p f.bit_lt, decide_eq_false hbit, Bool.xor_false]

/-- Another flag is written as before. -/
theorem setFlag_flipFlag {f g : Flag} (h : f ≠ g) (b : Bool) (p : Byte) :
    setFlag f b (flipFlag g p) = flipFlag g (setFlag f b p) := by
  refine status_ext fun k hk => ?_
  rw [setFlag_bit f b _ hk, flipFlag_bit g _ hk, flipFlag_bit g _ hk, setFlag_bit f b _ hk]
  by_cases hf : k = f.bit
  · have hg : k ≠ g.bit := fun e => h (Flag.bit_inj (hf.symm.trans e))
    rw [if_pos hf, if_pos hf, decide_eq_false hg, Bool.xor_false]
  · rw [if_neg hf, if_neg hf]

/-- The machine with one flag the other way. -/
def State.flip (g : Flag) (s : State) : State := s.setP (flipFlag g s.p)

/-- What a part of a step gives, with the state it ends in changed by `φ`. -/
def Res.mapState {α : Type} (φ : State → State) : Res α → Res α
  | .ok v s => .ok v (φ s)
  | .fail f a s => .fail f a (φ s)

/-- Two machines that differ by `φ` still do after two parts of a step, if they do after each. -/
theorem Res.bind_mapState {α β : Type} {φ : State → State} {r r' : Res α} {k k' : α → State → Res β}
    (hr : r' = r.mapState φ) (hk : ∀ v t, r = .ok v t → k' v (φ t) = (k v t).mapState φ) :
    r'.bind k' = (r.bind k).mapState φ := by
  subst hr
  cases r with
  | ok v t => exact hk v t rfl
  | fail f a t => rfl

section
variable (g : Flag)

theorem readByte_flip (a : Word) (s : State) : readByte a (s.flip g) = (readByte a s).mapState (State.flip g) := by
  have hp : portAnswer (s.flip g) a = portAnswer s a := rfl
  unfold readByte
  rw [hp]
  cases portAnswer s a <;> rfl

theorem pull_flip (s : State) : pull (s.flip g) = (pull s).mapState (State.flip g) :=
  readByte_flip g _ (s.setSP (s.sp + 1))

theorem resolve_flip (o : Operand) (s : State) : resolve o (s.flip g) = (resolve o s).mapState (State.flip g) := by
  have hfirst : ∀ a, readByte a ((s.flip g).setPC (nextPC s o)) =
      (readByte a (s.setPC (nextPC s o))).mapState (State.flip g) := fun a =>
    readByte_flip g a (s.setPC (nextPC s o))
  cases o with
  | indirectX _ | indirectY _ | indirect _ =>
    exact Res.bind_mapState (hfirst _) fun _ t _ => Res.bind_mapState (readByte_flip g _ t) fun _ _ _ => rfl
  | _ => rfl

theorem load_flip (c : Ctx) (s : State) : load c (s.flip g) = (load c s).mapState (State.flip g) := by
  unfold load
  cases c.mode with
  | accumulator | immediate | implicit | relative | indirect => rfl
  | _ => exact readByte_flip g _ s

theorem store_flip (c : Ctx) (v : Byte) (s : State) : store c v (s.flip g) = (store c v s).flip g := by
  unfold store
  cases c.mode <;> rfl

theorem readInto_flip {f : Byte → State → State} (hf : ∀ v s, f v (s.flip g) = (f v s).flip g) (c : Ctx) (s : State) :
    readInto f c (s.flip g) = (readInto f c s).mapState (State.flip g) :=
  Res.bind_mapState (load_flip g c s) fun v t _ => congrArg (Res.ok c) (hf v t)

theorem modify_flip {f h : State → Byte → Byte} (hf : ∀ s m, f (s.flip g) m = f s m)
    (hh : ∀ s m, h (s.flip g) m = flipFlag g (h s m)) (c : Ctx) (s : State) :
    modify f h c (s.flip g) = (modify f h c s).mapState (State.flip g) :=
  Res.bind_mapState (load_flip g c s) fun m t _ => by
    rw [hf, hh, store_flip]
    rfl

theorem update_flip {f : State → State} {s : State} (hf : f (s.flip g) = (f s).flip g) (c : Ctx) :
    update f c (s.flip g) = (update f c s).mapState (State.flip g) := congrArg (Res.ok c) hf

theorem branch_flip {b b' : Bool} (hb : b' = b) (c : Ctx) (s : State) :
    branch b' c (s.flip g) = (branch b c s).mapState (State.flip g) := by
  subst hb
  unfold branch
  cases b' <;> rfl

/-- A new P that keeps the flag leaves the two machines apart by it. -/
theorem setP_flip {f : Byte → Byte} (hf : ∀ p, f (flipFlag g p) = flipFlag g (f p)) (s : State) :
    (s.flip g).setP (f (s.flip g).p) = (s.setP (f s.p)).flip g := congrArg (s.setP ·) (hf s.p)

end

section
variable {g : Flag} (hg : g = .i ∨ g = .d)
include hg

/-- The flags that results write are neither I nor D. -/
theorem ne_gate {f : Flag} (hf : f ∈ [.n, .v, .z, .c]) : f ≠ g := by
  rintro rfl
  rcases hg with rfl | rfl <;> exact absurd hf (by decide)

theorem setNZ_flip (v p : Byte) : setNZ v (flipFlag g p) = flipFlag g (setNZ v p) := by
  unfold setNZ
  rw [setFlag_flipFlag (ne_gate hg (by decide)), setFlag_flipFlag (ne_gate hg (by decide))]

theorem shiftFlags_flip (r : Shifted) (p : Byte) : shiftFlags r (flipFlag g p) = flipFlag g (shiftFlags r p) := by
  unfold shiftFlags
  rw [setFlag_flipFlag (ne_gate hg (by decide)), setNZ_flip hg]

theorem adderFlags_flip (out : Byte × Bool × Bool) (p : Byte) :
    adderFlags out (flipFlag g p) = flipFlag g (adderFlags out p) := by
  unfold adderFlags
  rw [setFlag_flipFlag (ne_gate hg (by decide)), setFlag_flipFlag (ne_gate hg (by decide)), setNZ_flip hg]

theorem compareFlags_flip (less : Bool) (reg m p : Byte) :
    compareFlags less reg m (flipFlag g p) = flipFlag g (compareFlags less reg m p) := by
  unfold compareFlags
  simp only [setFlag_flipFlag (ne_gate hg (f := .z) (by decide)), setFlag_flipFlag (ne_gate hg (f := .c) (by decide)),
    setFlag_flipFlag (ne_gate hg (f := .n) (by decide))]

theorem bitFlags_flip (a m p : Byte) : bitFlags a m (flipFlag g p) = flipFlag g (bitFlags a m p) := by
  unfold bitFlags
  simp only [setFlag_flipFlag (ne_gate hg (f := .z) (by decide)), setFlag_flipFlag (ne_gate hg (f := .n) (by decide)),
    setFlag_flipFlag (ne_gate hg (f := .v) (by decide))]

theorem flag_flip {f : Flag} (hf : f ∈ [.n, .v, .z, .c]) (s : State) : flag f (s.flip g).p = flag f s.p :=
  flag_flipFlag (ne_gate hg hf) s.p

theorem updateA_flip (v : Byte) (s : State) : (s.flip g).updateA v = (s.updateA v).flip g :=
  setP_flip g (setNZ_flip hg v) (s.setA v)

theorem updateX_flip (v : Byte) (s : State) : (s.flip g).updateX v = (s.updateX v).flip g :=
  setP_flip g (setNZ_flip hg v) (s.setX v)

theorem updateY_flip (v : Byte) (s : State) : (s.flip g).updateY v = (s.updateY v).flip g :=
  setP_flip g (setNZ_flip hg v) (s.setY v)

theorem updateFlag_flip {f : Flag} (hf : f ∈ [.n, .v, .z, .c]) (b : Bool) (c : Ctx) (s : State) :
    update (fun s => s.setP (setFlag f b s.p)) c (s.flip g) =
      (update (fun s => s.setP (setFlag f b s.p)) c s).mapState (State.flip g) :=
  update_flip g (f := fun s => s.setP (setFlag f b s.p)) (setP_flip g (setFlag_flipFlag (ne_gate hg hf) b) s) c

theorem compareWith_flip {reg : State → Byte} (hreg : ∀ s, reg (s.flip g) = reg s) (m : Byte) (s : State) :
    compareWith reg m (s.flip g) = (compareWith reg m s).flip g := by
  unfold compareWith
  rw [hreg]
  exact setP_flip g (compareFlags_flip hg _ _ _) s

theorem bitInto_flip (m : Byte) (s : State) :
    (s.flip g).setP (bitFlags (s.flip g).a m (s.flip g).p) = (s.setP (bitFlags s.a m s.p)).flip g :=
  setP_flip g (bitFlags_flip hg s.a m) s

/-- The support check does not see I, and under the binary policy it does not see D. -/
theorem decimalCheck_flip {s : State} (hd : g = .d → s.cfg.decimal = .binary) (c : Ctx) :
    decimalCheck c (s.flip g) = (decimalCheck c s).mapState (State.flip g) := by
  have hcond : (s.cfg.decimal = .fault ∧ flag .d (s.flip g).p = true) ↔ (s.cfg.decimal = .fault ∧ flag .d s.p = true) := by
    rcases hg with rfl | rfl
    · rw [show flag .d (s.flip .i).p = flag .d s.p from flag_flipFlag (by decide) s.p]
    · simp [hd rfl]
  unfold decimalCheck
  by_cases h : s.cfg.decimal = .fault ∧ flag .d s.p = true
  · rw [if_pos h]
    exact if_pos (hcond.mpr h)
  · rw [if_neg h]
    exact if_neg (mt hcond.mp h)

theorem addInto_flip {s : State} (hd : g = .d → s.cfg.decimal = .binary) (invert : Bool) (c : Ctx) :
    addInto invert c (s.flip g) = (addInto invert c s).mapState (State.flip g) :=
  Res.bind_mapState (decimalCheck_flip hg hd c) fun _ t _ => Res.bind_mapState (load_flip g c t) fun m u _ => by
    rw [flag_flip hg (by decide)]
    exact congrArg (Res.ok c) (setP_flip g (adderFlags_flip hg _) (u.setA _))

/-- Routines that neither write nor push the flag run alike with the flag the other way. -/
theorem routineOf_flip {i : Instr} (hi : i.mnemonic ∉ [.CLI, .SEI, .CLD, .SED, .PHP, .PLP, .BRK, .RTI]) {s : State}
    (hd : g = .d → s.cfg.decimal = .binary) (c : Ctx) :
    routineOf i c (s.flip g) = (routineOf i c s).mapState (State.flip g) := by
  cases i with
  | adc _ | sbc _ => exact addInto_flip hg hd _ c
  | cmp _ | cpx _ | cpy _ => exact readInto_flip g (compareWith_flip hg fun _ => rfl) c s
  | and _ => exact readInto_flip g (fun m t => updateA_flip hg (t.a &&& m) t) c s
  | ora _ => exact readInto_flip g (fun m t => updateA_flip hg (t.a ||| m) t) c s
  | eor _ => exact readInto_flip g (fun m t => updateA_flip hg (t.a ^^^ m) t) c s
  | bit _ => exact readInto_flip g (bitInto_flip hg) c s
  | asl _ | lsr _ => exact modify_flip g (fun _ _ => rfl) (fun _ _ => shiftFlags_flip hg _ _) c s
  | rol _ | ror _ =>
    have hc : ∀ t : State, flag .c (t.flip g).p = flag .c t.p := fun t => flag_flip hg (by decide) t
    exact modify_flip g (fun t _ => by rw [hc]) (fun t _ => by rw [hc]; exact shiftFlags_flip hg _ _) c s
  | inc _ | dec _ => exact modify_flip g (fun _ _ => rfl) (fun _ _ => setNZ_flip hg _ _) c s
  | inx | dex | tax | tsx => exact update_flip g (updateX_flip hg _ s) c
  | iny | dey | tay => exact update_flip g (updateY_flip hg _ s) c
  | txa | tya => exact update_flip g (updateA_flip hg _ s) c
  | lda _ => exact readInto_flip g (updateA_flip hg) c s
  | ldx _ => exact readInto_flip g (updateX_flip hg) c s
  | ldy _ => exact readInto_flip g (updateY_flip hg) c s
  | sta _ | stx _ | sty _ => exact congrArg (Res.ok c) (store_flip g c _ s)
  | pla => exact Res.bind_mapState (pull_flip g s) fun v t _ => congrArg (Res.ok c) (updateA_flip hg v t)
  | rts => exact Res.bind_mapState (pull_flip g s) fun _ t _ => Res.bind_mapState (pull_flip g t) fun _ _ _ => rfl
  | bcs _ | beq _ | bmi _ | bvs _ => exact branch_flip g (flag_flip hg (by decide) s) c s
  | bcc _ | bne _ | bpl _ | bvc _ => exact branch_flip g (congrArg not (flag_flip hg (by decide) s)) c s
  | clc | sec => exact updateFlag_flip hg (f := .c) (by decide) _ c s
  | clv => exact updateFlag_flip hg (f := .v) (by decide) _ c s
  | txs | pha | jmp _ | jsr _ | nop | dflt _ => rfl
  | cli | sei | cld | sed | php | plp | brk | rti => exact absurd (by decide) hi

/-- The flag gates nothing: the two machines differ by it after the instruction as before. -/
theorem exec_flip {i : Instr} (hi : i.mnemonic ∉ [.CLI, .SEI, .CLD, .SED, .PHP, .PLP, .BRK, .RTI]) {s t : State}
    (hd : g = .d → s.cfg.decimal = .binary) (he : exec i s = .next t) : exec i (s.flip g) = .next (t.flip g) := by
  cases hl : i.pairLegal with
  | false => rw [exec_of_illegal hl] at he; cases he
  | true =>
    have hrun : (resolve i.operand (s.flip g)).bind (routineOf i) =
        ((resolve i.operand s).bind (routineOf i)).mapState (State.flip g) :=
      Res.bind_mapState (resolve_flip g _ s) fun c u hu => by
        have hread : Reads s.pc s (resolve i.operand s) := Reads.resolve _
        rw [hu] at hread
        exact routineOf_flip hg hi (fun h => hread.cfg ▸ hd h) c
    rw [exec_of_legal hl] at he ⊢
    rw [hrun]
    cases hr : (resolve i.operand s).bind (routineOf i) with
    | ok c u => rw [hr] at he; cases he; rfl
    | fail f a u => rw [hr] at he; cases he; rfl

end

/-- Settles O59: both bits are a flag that the instruction neither writes nor pushes, and the support check of ADC and SBC,
which alone reads P.D, passes under the binary policy. -/
theorem interruptAndDecimalBitsGateNothing : Obligations.InterruptAndDecimalBitsGateNothing := fun _ _ _ hi he =>
  ⟨exec_flip (g := .i) (.inl rfl) hi nofun he, fun hb => exec_flip (g := .d) (.inr rfl) hi (fun _ => hb) he⟩

end Sys2Proof.Machine

/-! ### Reading back what was written (R52, R58), and the order of a step's transactions (R57) -/

namespace Sys2Proof.Machine

/-- The unmapped gap reads as 0 (R52). -/
theorem peek_of_gap {s : State} {a : Word} (h : kindAt s.cfg.map a = .gap) : peek s a = 0x00 := by
  unfold peek
  rw [h]

/-- Settles O56, from the rules of a single write. -/
theorem writtenByteReadsBack : Obligations.WrittenByteReadsBack := fun s a v hw =>
  ⟨peek_writeByte_same hw, fun _ hb => peek_writeByte_other v hb.symm, writeByte_mem_of_not_plain v,
    fun hg => peek_of_gap (s := writeByte a v s) hg⟩

/-- A step from a state that is not halted is run. -/
theorem runStep_of_step {s t : State} (hrun : s.halted = false) (hs : step s = .next t) : runStep s = .next t :=
  (step_of_running (step_eq_next hs).1 hrun).symm.trans hs

/-- What a step that is run has done: it fetched an instruction, which answered a next state, and the base count was
added; or the fetch was stopped by a fault, which was taken. -/
theorem runStep_eq_next {s t : State} (h : runStep s = .next t) :
    (∃ e i u v, fetch s.clearBus = .ok (some (e, i)) u ∧ exec i u = .next v ∧ t = chargeBase e.base v) ∨
      ∃ f a u, fetch s.clearBus = .fail f a u ∧ t = takeFault s f a u := by
  unfold runStep at h
  split at h
  · rename_i e i u hf
    cases he : exec i u with
    | next v => rw [he] at h; cases h; exact .inl ⟨e, i, u, v, hf, he, rfl⟩
    | fault _ => rw [he] at h; cases h
    | refused _ => rw [he] at h; cases h
  · cases h
  · rename_i f a u hf
    cases h
    exact .inr ⟨f, a, u, hf, rfl⟩

theorem chargeBase_eq (n : Nat) (s : State) : ∃ k, chargeBase n s = s.addCyc k := by
  unfold chargeBase
  split
  · exact ⟨0, rfl⟩
  · exact ⟨n, rfl⟩

/-- The two phases of a step that is run: reads, then writes and no fault; or reads, then a fault taken. -/
theorem runStep_phases {s t : State} (h : runStep s = .next t) :
    (∃ u v pc k, ReadPhase s.clearBus u ∧ WritePhase u v ∧ t = (v.setPC pc).addCyc k) ∨
      ∃ s₀ f a u, ReadPhase s.clearBus u ∧ t = takeFault s₀ f a u := by
  have hfetch : Reads s.pc s.clearBus (fetch s.clearBus) := Reads.fetch _
  rcases runStep_eq_next h with ⟨e, i, u, v, hf, he, rfl⟩ | ⟨f, a, u, hf, rfl⟩
  · rw [hf] at hfetch
    obtain ⟨k, hk⟩ := chargeBase_eq e.base v
    rcases exec_phases he with ⟨u', v', pc, k', hr, hw, -, rfl⟩ | ⟨f, a, u', ⟨hr, -⟩, rfl⟩
    · exact .inl ⟨u', v', pc, k' + k, hfetch.trans hr, hw, hk.trans (by simp [State.addCyc, Nat.add_assoc])⟩
    · exact .inr ⟨u, f, a, u', hfetch.trans hr, rfl⟩
  · rw [hf] at hfetch
    exact .inr ⟨s, f, a, u, hfetch.1, rfl⟩

/-- Settles O18: the fetch and the instruction's own reads, then its writes; a fault comes out of the reads. -/
theorem readsComeBeforeWrites : Obligations.ReadsComeBeforeWrites := by
  intro s t hrun hs
  rcases runStep_phases (runStep_of_step hrun hs) with ⟨u, v, pc, k, hu, hv, rfl⟩ | ⟨s₀, f, a, u, hu, rfl⟩
  · obtain ⟨rs, hrs, hread⟩ := hu.bus
    obtain ⟨ws, hws, hwrite⟩ := hv.bus
    have hgo : v.halted = false := hv.halted.trans (hu.halted.trans hrun)
    exact ⟨rs, ws, hws.trans (congrArg (· ++ ws) hrs), hread, hwrite, fun hh => absurd hh (by simp [hgo])⟩
  · obtain ⟨rs, hrs, hread⟩ := hu.bus
    exact ⟨rs, [], hrs.trans (List.append_nil _).symm, hread, nofun, fun _ => rfl⟩

end Sys2Proof.Machine

/-! ### What the listed transactions say of memory and of the devices (R50, R52, R56) -/

namespace Sys2Proof.Machine

/-- A transaction that the map can give: a read's answer is one that the kind of its region allows (R50, R52). -/
def fitsMap (map : List Region) : Access → Prop
  | .rd a ans =>
    (kindAt map a = .gap → ans = some 0x00) ∧
    (ans = none → kindAt map a = .unserved ∨ kindAt map a = .device) ∧
    (kindAt map a = .unserved → ans = none)
  | .wr _ _ => True

/-- What the port answers is what the map allows. -/
theorem portAnswer_fits (s : State) (a : Word) : fitsMap s.cfg.map (.rd a (portAnswer s a)) := by
  unfold fitsMap portAnswer
  cases h : kindAt s.cfg.map a <;> simp [h]

/-- From `s` to `t` the transactions `l` were made: they are listed, the devices have seen theirs, the answers are
those of the map, and a byte at an address that none of them wrote is as before. -/
structure Transacted (l : List Access) (s t : State) : Prop where
  cfg : t.cfg = s.cfg
  bus : t.bus = s.bus ++ l
  devLog : t.devLog = s.devLog ++ l.filter fun x => kindAt s.cfg.map x.addr = .device
  fits : ∀ x ∈ l, fitsMap s.cfg.map x
  peek : ∀ b, (∀ v, .wr b v ∉ l) → peek t b = peek s b

/-- An update of the registers makes no transaction. -/
theorem Transacted.nil {s t : State} (hc : t.cfg = s.cfg) (hb : t.bus = s.bus) (hd : t.devLog = s.devLog)
    (hm : t.mem = s.mem) : Transacted [] s t where
  cfg := hc
  bus := hb.trans (List.append_nil _).symm
  devLog := hd.trans (List.append_nil _).symm
  fits := nofun
  peek b _ := peek_congr hm hc b

theorem Transacted.trans {l l' : List Access} {s t u : State} (h : Transacted l s t) (g : Transacted l' t u) :
    Transacted (l ++ l') s u where
  cfg := g.cfg.trans h.cfg
  bus := by rw [g.bus, h.bus, List.append_assoc]
  devLog := by rw [g.devLog, h.devLog, h.cfg, List.append_assoc, List.filter_append]
  fits x hx := (List.mem_append.mp hx).elim (h.fits x) fun hx => h.cfg ▸ g.fits x hx
  peek b hb :=
    (g.peek b fun v hv => hb v (List.mem_append_right _ hv)).trans
      (h.peek b fun v hv => hb v (List.mem_append_left _ hv))

/-- What the devices have seen after one transaction more. -/
theorem deviceLog_eq (s : State) (x : Access) :
    deviceLog s x.addr x = s.devLog ++ [x].filter fun x => kindAt s.cfg.map x.addr = .device := by
  unfold deviceLog
  by_cases h : kindAt s.cfg.map x.addr = .device <;> simp [h]

theorem Transacted.logRead (a : Word) (s : State) : Transacted [.rd a (portAnswer s a)] s (s.logRead a) where
  cfg := rfl
  bus := rfl
  devLog := deviceLog_eq s (.rd a (portAnswer s a))
  fits _ hx := List.mem_singleton.mp hx ▸ portAnswer_fits s a
  peek _ _ := rfl

theorem Transacted.writeByte (a : Word) (v : Byte) (s : State) : Transacted [.wr a v] s (writeByte a v s) where
  cfg := rfl
  bus := rfl
  devLog := deviceLog_eq s (.wr a v)
  fits _ hx := List.mem_singleton.mp hx ▸ trivial
  peek _ hb := peek_writeByte_other v fun hab => hb v (hab ▸ List.mem_singleton_self _)

theorem closed_transacted : Closed fun s t => ∃ l, Transacted l s t where
  refl _ := ⟨[], .nil rfl rfl rfl rfl⟩
  trans := fun ⟨_, h⟩ ⟨_, g⟩ => ⟨_, h.trans g⟩
  setA _ _ := ⟨[], .nil rfl rfl rfl rfl⟩
  setX _ _ := ⟨[], .nil rfl rfl rfl rfl⟩
  setY _ _ := ⟨[], .nil rfl rfl rfl rfl⟩
  setSP _ _ := ⟨[], .nil rfl rfl rfl rfl⟩
  setP _ _ := ⟨[], .nil rfl rfl rfl rfl⟩
  setPC _ _ := ⟨[], .nil rfl rfl rfl rfl⟩
  addCyc _ _ := ⟨[], .nil rfl rfl rfl rfl⟩
  logRead a s := ⟨_, .logRead a s⟩
  writeByte a v s := ⟨_, .writeByte a v s⟩

/-- A fault taken makes no transaction of its own. -/
theorem Transacted.takeFault {l : List Access} {s u : State} (h : Transacted l s u) (s₀ : State) (f : Fault)
    (a : Word) : Transacted l s (takeFault s₀ f a u) := ⟨h.cfg, h.bus, h.devLog, h.fits, h.peek⟩

theorem exec_transacted {i : Instr} {s t : State} (he : exec i s = .next t) : ∃ l, Transacted l s t := by
  rcases exec_inversion closed_transacted he with h | ⟨f, a, u, ⟨l, hl⟩, rfl⟩
  · exact h
  · exact ⟨l, hl.takeFault s f a⟩

theorem runStep_transacted {s t : State} (h : runStep s = .next t) : ∃ l, Transacted l s.clearBus t := by
  rcases runStep_inversion closed_transacted h with h | ⟨f, a, u, v, ⟨l, hu⟩, ⟨l', hv⟩, rfl⟩
  · exact h
  · exact ⟨l ++ l', (hu.trans hv).takeFault u f a⟩

/-- Settles O60: the list of a step begins empty, and every transaction on it was made at the port. -/
theorem transactionsFollowTheMap : Obligations.TransactionsFollowTheMap := by
  intro s t hrun hs
  obtain ⟨l, hl⟩ := runStep_transacted (runStep_of_step hrun hs)
  obtain rfl : t.bus = l := hl.bus
  exact ⟨hl.devLog, fun a ans hx => hl.fits _ hx⟩

/-! ### Where an instruction writes (R57, R120) -/

/-- From `s` to `t` every write listed is at one of the addresses `as`. -/
def WritesAt (as : List Word) (s t : State) : Prop :=
  ∃ l, t.bus = s.bus ++ l ∧ ∀ x ∈ l, x.isRead = true ∨ x.addr ∈ as

theorem WritesAt.of_bus {as : List Word} {s t : State} (h : t.bus = s.bus) : WritesAt as s t :=
  ⟨[], h.trans (List.append_nil _).symm, nofun⟩

theorem WritesAt.of_reads {as : List Word} {s t : State} (h : ReadPhase s t) : WritesAt as s t := by
  obtain ⟨rs, hrs, hread⟩ := h.bus
  exact ⟨rs, hrs, fun x hx => .inl (hread x hx)⟩

theorem WritesAt.trans {as : List Word} {s t u : State} (h : WritesAt as s t) (g : WritesAt as t u) :
    WritesAt as s u := by
  obtain ⟨l, hl, hat⟩ := h
  obtain ⟨l', hl', hat'⟩ := g
  exact ⟨l ++ l', by rw [hl', hl, List.append_assoc], fun x hx => (List.mem_append.mp hx).elim (hat x) (hat' x)⟩

theorem WritesAt.writeByte {as : List Word} {a : Word} (ha : a ∈ as) (v : Byte) (s : State) :
    WritesAt as s (writeByte a v s) :=
  ⟨[.wr a v], rfl, fun _ hx => .inr (List.mem_singleton.mp hx ▸ ha)⟩

theorem WritesAt.push {as : List Word} {s : State} (ha : stackAddr s.sp ∈ as) (v : Byte) : WritesAt as s (push v s) :=
  .writeByte ha v s

/-- What comes after reads writes where it says. -/
theorem WritesAt.bind {α β : Type} {as : List Word} {s : State} {r : Res α} {k : α → State → Res β}
    (hr : Reads s.pc s r) (hk : ∀ v t, r = .ok v t → WritesAt as t (k v t).state) :
    WritesAt as s (r.bind k).state := by
  cases r with
  | ok v t => exact (WritesAt.of_reads hr).trans (hk v t rfl)
  | fail f a t => exact .of_reads hr.1

/-- `Store` writes at the operand's result address, or to A. -/
theorem WritesAt.store {o : Operand} {s u : State} {c : Ctx} (hc : resolve o s = .ok c u) (v : Byte) (t : State) :
    WritesAt (resultAddr o s) t (store c v t) := by
  have hres : resultAddr o s = if inMemory o then [c.ea] else [] := by rw [resultAddr, hc]
  rw [hres, Machine.store, (resolve_ctx hc).1]
  cases o with
  | implicit | accumulator | immediate _ | indirect _ | relative _ => exact .of_bus rfl
  | _ => exact .writeByte (List.mem_singleton_self _) v t

/-- Three pushes write at the three addresses from SP down. -/
theorem push_push_push_writesAt (x y z : Byte) (s : State) :
    WritesAt [stackAddr s.sp, stackAddr (s.sp - 1), stackAddr (s.sp - 2)] s (push z (push y (push x s))) := by
  have h2 : s.sp - 1 - 1 = s.sp - 2 := by bv_omega
  have h3 : (push y (push x s)).sp = s.sp - 2 := h2
  exact (WritesAt.push (by simp) x).trans ((WritesAt.push (by simp) y).trans (.push (by rw [h3]; simp) z))

/-- BRK's trap entry writes at the three addresses it pushes to (R283). -/
theorem trapEntry_writesAt (s : State) :
    WritesAt [stackAddr s.sp, stackAddr (s.sp - 1), stackAddr (s.sp - 2)] s (trapEntry s).state := by
  unfold trapEntry
  refine .bind (Reads.readByte _) fun lo t ht => .bind (Reads.readByte _) fun hi u hu => ?_
  have hsp : u.sp = s.sp := by
    rw [(readByte_eq_ok.mp hu).2, (readByte_eq_ok.mp ht).2, logRead_sp, logRead_sp]
  rw [← hsp]
  refine (push_push_push_writesAt (hi8 (u.pc + 1)) (lo8 (u.pc + 1)) (u.p ||| 0x30) u).trans ?_
  exact .of_bus rfl

/-- RTI's trap return writes nothing (R284). -/
theorem trapReturn_writesAt (as : List Word) (s : State) : WritesAt as s (trapReturn s).state :=
  .bind Reads.pull fun p t _ =>
    have hp : WritesAt as t (t.setP p) := .of_bus rfl
    hp.trans (.bind Reads.pull fun _ _ _ => .bind Reads.pull fun _ _ _ => .of_bus rfl)

/-- A part of a step followed by an update that makes no transaction. -/
theorem WritesAt.bind_ok {α β : Type} {as : List Word} {s : State} {r : Res α} (hr : WritesAt as s r.state)
    (k : α → State → β) : WritesAt as s (r.bind fun v t => .ok (k v t) t).state := by
  cases r <;> exact hr

theorem breakTrap_writesAt {s u : State} (hsp : u.sp = s.sp) (hcfg : u.cfg = s.cfg) (c : Ctx) :
    WritesAt (storedAddrs .brk s) u (breakTrap c u).state := by
  unfold breakTrap
  cases hs : u.cfg.stubs with
  | fault => exact .of_bus rfl
  | nmos =>
    have hst : storedAddrs .brk s = [stackAddr u.sp, stackAddr (u.sp - 1), stackAddr (u.sp - 2)] := by
      simp [storedAddrs, Instr.mnemonic, hsp, ← hcfg, hs]
    rw [hst]
    exact .bind_ok (trapEntry_writesAt u) fun _ _ => c

theorem breakReturn_writesAt (as : List Word) (c : Ctx) (s : State) : WritesAt as s (breakReturn c s).state := by
  unfold breakReturn
  cases s.cfg.stubs with
  | fault => exact .of_bus rfl
  | nmos => exact .bind_ok (trapReturn_writesAt as s) fun _ _ => c

/-- A routine that runs after a resolver writes at the addresses its instruction stores to. -/
theorem routineOf_writesAt {i : Instr} {s u : State} {c : Ctx} (hc : resolve i.operand s = .ok c u) :
    WritesAt (storedAddrs i s) u (routineOf i c u).state := by
  have hread : ∀ {as : List Word} (f : Byte → State → State), (∀ v t, (f v t).bus = t.bus) →
      WritesAt as u (readInto f c u).state := fun f hf =>
    .bind (Reads.load c) fun v t _ => .of_bus (hf v t)
  have hmod : ∀ f g : State → Byte → Byte, WritesAt (resultAddr i.operand s) u (modify f g c u).state := fun f g =>
    .bind (Reads.load c) fun m t _ => (WritesAt.store hc (f t m) t).trans (.of_bus rfl)
  have hadd : ∀ {as : List Word} (b : Bool), WritesAt as u (addInto b c u).state := fun _ => by
    unfold addInto decimalCheck
    split
    · exact .of_bus rfl
    · rw [Res.bind_ok]
      exact .bind (Reads.load c) fun _ _ _ => .of_bus rfl
  have hbr : ∀ {as : List Word} (b : Bool), WritesAt as u (branch b c u).state := fun _ => by
    unfold branch
    split <;> exact .of_bus rfl
  cases i with
  | adc _ | sbc _ => exact hadd _
  | cmp _ | cpx _ | cpy _ | and _ | ora _ | eor _ | bit _ | lda _ | ldx _ | ldy _ => exact hread _ fun _ _ => rfl
  | asl _ | lsr _ | rol _ | ror _ | inc _ | dec _ => exact hmod _ _
  | sta _ | stx _ | sty _ => exact .store hc _ u
  | pha | php =>
    cases hc
    exact .push (List.mem_singleton_self _) _
  | jsr target =>
    cases hc
    exact (WritesAt.push (List.mem_cons_self ..) _).trans (.push (List.mem_cons_of_mem _ (List.mem_cons_self ..)) _)
  | pla | plp => exact .bind Reads.pull fun _ _ _ => .of_bus rfl
  | rts => exact .bind Reads.pull fun _ _ _ => .bind Reads.pull fun _ _ _ => .of_bus rfl
  | bcc _ | bcs _ | beq _ | bne _ | bmi _ | bpl _ | bvc _ | bvs _ => exact hbr _
  | brk =>
    cases hc
    exact breakTrap_writesAt rfl rfl _
  | rti => exact breakReturn_writesAt _ c u
  | _ => exact .of_bus rfl

theorem exec_writesAt {i : Instr} {s t : State} (he : exec i s = .next t) : WritesAt (storedAddrs i s) s t := by
  cases hl : i.pairLegal with
  | false => rw [exec_of_illegal hl] at he; cases he
  | true =>
    have hrun : WritesAt (storedAddrs i s) s ((resolve i.operand s).bind (routineOf i)).state :=
      .bind (Reads.resolve _) fun c u hc => routineOf_writesAt hc
    rw [exec_of_legal hl] at he
    cases hr : (resolve i.operand s).bind (routineOf i) with
    | ok c u => rw [hr] at he hrun; cases he; exact hrun
    | fail f a u => rw [hr] at he hrun; cases he; exact hrun

/-- Settles O54: memory and the devices follow the transactions listed, and the writes on that list are at the addresses
stored to. -/
theorem onlyStoredBytesChange : Obligations.OnlyStoredBytesChange := by
  intro i s t he
  obtain ⟨l, hl⟩ := exec_transacted he
  obtain ⟨l', hbus, hat⟩ := exec_writesAt he
  obtain rfl : l = l' := List.append_cancel_left (hl.bus.symm.trans hbus)
  refine ⟨fun b hb => hl.peek b fun v hv => ?_, fun hdev => ⟨_, hl.devLog, fun x hx => ?_⟩⟩
  · exact (hat _ hv).elim nofun hb
  · obtain ⟨hx, hkind⟩ := List.mem_filter.mp hx
    exact (hat x hx).resolve_right fun ha => hdev _ ha (of_decide_eq_true hkind)

end Sys2Proof.Machine

/-! ### An ERR on a read of the routine's own (R50, R304) -/

namespace Sys2Proof.Machine

/-- Two states that are the same to the memory port: they differ in registers, CYC and run state alone. -/
structure SamePort (s t : State) : Prop where
  mem : s.mem = t.mem := by rfl
  cfg : s.cfg = t.cfg := by rfl
  bus : s.bus = t.bus := by rfl
  devLog : s.devLog = t.devLog := by rfl

theorem SamePort.portAnswer {s t : State} (h : SamePort s t) (a : Word) : portAnswer s a = portAnswer t a :=
  portAnswer_congr h.mem h.cfg h.devLog a

theorem SamePort.logRead {s t : State} (h : SamePort s t) (a : Word) : SamePort (s.logRead a) (t.logRead a) where
  mem := h.mem
  cfg := h.cfg
  bus := by rw [logRead_bus, logRead_bus, h.bus, h.portAnswer a]
  devLog := by rw [logRead_devLog, logRead_devLog, h.portAnswer a, deviceLog, deviceLog, h.cfg, h.devLog]

theorem SamePort.setSP {s t : State} (h : SamePort s t) (v : Byte) : SamePort (s.setSP v) t :=
  ⟨h.mem, h.cfg, h.bus, h.devLog⟩

theorem SamePort.setP {s t : State} (h : SamePort s t) (v : Byte) : SamePort (s.setP v) t :=
  ⟨h.mem, h.cfg, h.bus, h.devLog⟩

/-- A part of a step that is stopped by a fault, with just the transactions made that lead to `t`. -/
def Res.StopsAfter {α : Type} (r : Res α) (f : Fault) (a : Word) (t : State) : Prop :=
  ∃ u, r = .fail f a u ∧ SamePort u t

section
variable {α β : Type} {r : Res α} {k : α → State → Res β} {f : Fault} {a : Word} {s t : State}

theorem Res.StopsAfter.bind (h : r.StopsAfter f a t) : (r.bind k).StopsAfter f a t := by
  obtain ⟨u, rfl, hu⟩ := h
  exact ⟨u, rfl, hu⟩

theorem Res.StopsAfter.bind_ok {v : α} (hr : r = .ok v s) (h : (k v s).StopsAfter f a t) :
    (r.bind k).StopsAfter f a t := by
  subst hr
  exact h

theorem readByte_stops (hp : SamePort s t) (h : portAnswer t a = none) :
    (readByte a s).StopsAfter .memRead a (t.logRead a) :=
  ⟨_, readByte_of_none ((hp.portAnswer a).trans h), hp.logRead a⟩

/-- A pull that is answered with ERR, at the address that SP moves to. -/
theorem pull_stops {n : Byte} (hp : SamePort s t) (hn : s.sp + 1 = n) (h : portAnswer t (stackAddr n) = none) :
    (pull s).StopsAfter .memRead (stackAddr n) (t.logRead (stackAddr n)) := by
  subst hn
  exact readByte_stops (hp.setSP _) h

/-- What follows a pull that is answered, at the address that SP moves to. -/
theorem Res.StopsAfter.bind_pull {u x : State} {n v : Byte} {k : Byte → State → Res β} (hp : SamePort s t)
    (hn : s.sp + 1 = n) (h : sees t (stackAddr n) = some (v, u))
    (hk : ∀ s', SamePort s' u → s'.sp = n → (k v s').StopsAfter f a x) : ((pull s).bind k).StopsAfter f a x := by
  subst hn
  obtain ⟨hans, rfl⟩ := sees_eq_some.mp h
  have hpull : pull s = .ok v ((s.setSP (s.sp + 1)).logRead (stackAddr (s.sp + 1))) :=
    readByte_eq_ok.mpr ⟨(hp.portAnswer _).trans hans, rfl⟩
  exact .bind_ok hpull (hk _ ((hp.setSP _).logRead _) rfl)

end

section
variable {s t : State} {f : Fault} {a : Word}

/-- An instruction whose resolver's reads are answered and whose routine is stopped by a fault: the fault is taken, and
the transactions made stay. -/
theorem exec_of_routine_stops {i : Instr} {u : State} {ptr : Word} (hl : i.pairLegal = true)
    (hp : pointer s i.operand = some (ptr, t))
    (hr : (routineOf i (ctxOf s i.operand ptr) (resolved s i.operand t)).StopsAfter f a u) :
    exec i s = .next (haltedBy s f a u) := by
  obtain ⟨w, hw, hport⟩ := hr
  have hread : ReadPhase (resolved s i.operand t) w := by
    have h := routineOf_phases i (ctxOf s i.operand ptr) (resolved s i.operand t)
    rw [hw] at h
    exact h.1
  have hmem : w.mem = s.mem := hread.mem.trans (congrArg State.mem (state_of_pointer hp) :)
  have hcfg : w.cfg = s.cfg := hread.cfg.trans (cfg_of_pointer hp :)
  rw [exec_of_legal hl, resolve_of_pointer hp, Res.bind_ok, hw]
  have hsame : haltedBy s f a w = haltedBy s f a u := by rw [haltedBy, hport.bus, hport.devLog, haltedBy]
  exact congrArg Host.Outcome.next ((takeFault_eq_haltedBy hmem hcfg f a).trans hsame)

/-- The same for an instruction of Implicit mode, whose routine starts with PC past the opcode. -/
theorem exec_of_implicit_stops {i : Instr} (hi : i.operand = .implicit) (hl : i.pairLegal = true)
    (hr : (routineOf i (ctxOf s .implicit 0) (s.setPC (s.pc + 1))).StopsAfter f a t) :
    exec i s = .next (haltedBy s f a t) :=
  exec_of_routine_stops (ptr := 0) (t := s) hl (by rw [hi]; rfl) (by rw [hi]; exact hr)

/-- Where its operand's read is stopped, an instruction that loads its operand is stopped, if its support check passes. -/
theorem routineOf_stops_of_load {i : Instr} {c : Ctx} (hi : loadsOperand i = true)
    (hd : i.mnemonic ∈ [.ADC, .SBC] → s.cfg.decimal = .binary ∨ flag .d s.p = false)
    (h : (load c s).StopsAfter f a t) : (routineOf i c s).StopsAfter f a t := by
  have hadd : s.cfg.decimal = .binary ∨ flag .d s.p = false → ∀ b, (addInto b c s).StopsAfter f a t := by
    intro hok b
    have hcheck : decimalCheck c s = .ok () s := if_neg fun ⟨hpol, hset⟩ => by
      rcases hok with hbin | hclear
      · rw [hpol] at hbin; cases hbin
      · rw [hset] at hclear; cases hclear
    exact .bind_ok hcheck h.bind
  cases i with
  | adc _ | sbc _ => exact hadd (hd (by simp [Instr.mnemonic])) _
  | cmp _ | cpx _ | cpy _ | and _ | ora _ | eor _ | bit _ | lda _ | ldx _ | ldy _ => exact h.bind
  | asl _ | lsr _ | rol _ | ror _ | inc _ | dec _ => exact h.bind
  | _ => exact absurd hi Bool.false_ne_true

/-- `Load()` where its read is answered with ERR. -/
theorem load_stops {o : Operand} {ptr : Word} (hm : inMemory o = true) (h : portAnswer t (effAddr s o ptr) = none) :
    (load (ctxOf s o ptr) (resolved s o t)).StopsAfter .memRead (effAddr s o ptr) (t.logRead (effAddr s o ptr)) := by
  have hread := readByte_stops (s := resolved s o t) {} h
  cases o with
  | implicit | accumulator | immediate _ | indirect _ | relative _ => cases hm
  | _ => exact hread

/-- An instruction that loads its operand, where that read is answered with ERR. -/
theorem exec_of_operand_none {i : Instr} {ptr : Word} (hl : i.pairLegal = true)
    (hload : loadsOperand i = true) (hm : inMemory i.operand = true) (hp : pointer s i.operand = some (ptr, t))
    (herr : portAnswer t (effAddr s i.operand ptr) = none)
    (hd : i.mnemonic ∈ [.ADC, .SBC] → s.cfg.decimal = .binary ∨ flag .d s.p = false) :
    exec i s = .next (haltedBy s .memRead (effAddr s i.operand ptr) (t.logRead (effAddr s i.operand ptr))) := by
  have hd' : i.mnemonic ∈ [.ADC, .SBC] →
      (resolved s i.operand t).cfg.decimal = .binary ∨ flag .d (resolved s i.operand t).p = false := by
    rw [state_of_pointer hp]
    exact hd
  exact exec_of_routine_stops hl hp (routineOf_stops_of_load hload hd' (load_stops hm herr))

end

/-! #### The pulls in pull order, and the vector's reads -/

section
variable {s t u : State} {v w : Byte}

/-- RTI is stopped where its trap return is (R284). -/
theorem exec_rti_of_stops {f : Fault} {a : Word} (hs : s.cfg.stubs = .nmos)
    (h : (trapReturn (s.setPC (s.pc + 1))).StopsAfter f a t) : exec .rti s = .next (haltedBy s f a t) := by
  refine exec_of_implicit_stops rfl rfl (?_ : (breakReturn _ _).StopsAfter f a t)
  rw [breakReturn, setPC_cfg, hs]
  exact h.bind

/-- BRK is stopped where its trap entry is (R283). -/
theorem exec_brk_of_stops {f : Fault} {a : Word} (hs : s.cfg.stubs = .nmos)
    (h : (trapEntry (s.setPC (s.pc + 1))).StopsAfter f a t) : exec .brk s = .next (haltedBy s f a t) := by
  refine exec_of_implicit_stops rfl rfl (?_ : (breakTrap _ _).StopsAfter f a t)
  rw [breakTrap, setPC_cfg, hs]
  exact h.bind

theorem exec_of_first_pull_none (herr : portAnswer s (stackAddr (s.sp + 1)) = none) {i : Instr}
    (hi : i ∈ [.pla, .plp, .rts] ∨ i = .rti ∧ s.cfg.stubs = .nmos) :
    exec i s = .next (haltedBy s .memRead (stackAddr (s.sp + 1)) (s.logRead (stackAddr (s.sp + 1)))) := by
  have hpull := pull_stops (s := s.setPC (s.pc + 1)) {} rfl herr
  rcases hi with hi | ⟨rfl, hs⟩
  · simp only [List.mem_cons, List.not_mem_nil, or_false] at hi
    rcases hi with rfl | rfl | rfl <;> exact exec_of_implicit_stops rfl rfl hpull.bind
  · exact exec_rti_of_stops hs hpull.bind

theorem exec_of_second_pull_none (hv : sees s (stackAddr (s.sp + 1)) = some (v, t))
    (herr : portAnswer t (stackAddr (s.sp + 2)) = none) {i : Instr} (hi : i = .rts ∨ i = .rti ∧ s.cfg.stubs = .nmos) :
    exec i s = .next (haltedBy s .memRead (stackAddr (s.sp + 2)) (t.logRead (stackAddr (s.sp + 2)))) := by
  have h2 : s.sp + 1 + 1 = s.sp + 2 := by bv_omega
  have hpull : ∀ s', SamePort s' t → s'.sp = s.sp + 1 →
      (pull s').StopsAfter .memRead (stackAddr (s.sp + 2)) (t.logRead (stackAddr (s.sp + 2))) := fun s' hp hsp =>
    pull_stops hp (hsp ▸ h2) herr
  rcases hi with rfl | ⟨rfl, hs⟩
  · exact exec_of_implicit_stops rfl rfl (.bind_pull {} rfl hv fun s' hp hsp => (hpull s' hp hsp).bind)
  · exact exec_rti_of_stops hs (.bind_pull {} rfl hv fun s' hp hsp => (hpull (s'.setP v) (hp.setP v) hsp).bind)

theorem exec_of_third_pull_none (hs : s.cfg.stubs = .nmos) (hv : sees s (stackAddr (s.sp + 1)) = some (v, t))
    (hw : sees t (stackAddr (s.sp + 2)) = some (w, u)) (herr : portAnswer u (stackAddr (s.sp + 3)) = none) :
    exec .rti s = .next (haltedBy s .memRead (stackAddr (s.sp + 3)) (u.logRead (stackAddr (s.sp + 3)))) := by
  have h2 : s.sp + 1 + 1 = s.sp + 2 := by bv_omega
  have h3 : s.sp + 2 + 1 = s.sp + 3 := by bv_omega
  exact exec_rti_of_stops hs (.bind_pull {} rfl hv fun _ hp hsp => .bind_pull (hp.setP v) (hsp ▸ h2) hw
    fun _ hp' hsp' => (pull_stops hp' (hsp' ▸ h3) herr).bind)

theorem exec_of_vector_lo_none (hs : s.cfg.stubs = .nmos) (herr : portAnswer s 0xFFFE = none) :
    exec .brk s = .next (haltedBy s .memRead 0xFFFE (s.logRead 0xFFFE)) :=
  exec_brk_of_stops hs (readByte_stops {} herr).bind

theorem exec_of_vector_hi_none (hs : s.cfg.stubs = .nmos) (hv : sees s 0xFFFE = some (v, t))
    (herr : portAnswer t 0xFFFF = none) : exec .brk s = .next (haltedBy s .memRead 0xFFFF (t.logRead 0xFFFF)) :=
  exec_brk_of_stops hs (.bind_ok (readByte_of_sees (sees_setPC (s.pc + 1) hv)) (readByte_stops {} herr).bind)

end

/-- Settles O50, read by read: an ERR on one of the routine's own reads stops the routine, and the fault is taken with the
transactions made so far. -/
theorem unservedOperandHalts : Obligations.UnservedOperandHalts :=
  ⟨fun _ _ _ _ hl hload hm hp herr hd => exec_of_operand_none hl hload hm hp herr hd,
    fun _ herr _ hi => exec_of_first_pull_none herr hi,
    fun _ _ _ hv herr _ hi => exec_of_second_pull_none hv herr hi,
    fun _ _ _ _ _ hs hv hw herr => exec_of_third_pull_none hs hv hw herr,
    fun _ hs => ⟨exec_of_vector_lo_none hs, fun _ _ hv herr => exec_of_vector_hi_none hs hv herr⟩⟩

end Sys2Proof.Machine

/-! ### The table a description builds (R76), and STD_TABLE (R77 to R79) -/

namespace Sys2Proof

/-- One record more sets its opcode's entry (R76). -/
theorem buildTable_concat (rs : List Record) (r : Record) :
    buildTable (rs ++ [r]) = (buildTable rs).set r.opcode.toNat r.entry := List.foldl_concat ..

theorem buildTable_length (rs : List Record) : (buildTable rs).length = 256 := by
  induction rs using List.reverseRecOn with
  | nil => exact List.length_replicate
  | append_singleton rs r ih => rw [buildTable_concat, List.length_set, ih]

/-- The entry at an opcode: that of the last record for it, and `DEFAULT` where there is none (R76). -/
theorem buildTable_getElem? (rs : List Record) (op : Byte) :
    (buildTable rs)[op.toNat]? = some (((rs.reverse.find? (·.opcode == op)).map Record.entry).getD defaultEntry) := by
  induction rs using List.reverseRecOn with
  | nil => exact List.getElem?_replicate_of_lt op.isLt
  | append_singleton rs r ih =>
    rw [buildTable_concat, List.reverse_concat, List.find?_cons]
    by_cases h : r.opcode = op
    · subst h
      rw [List.getElem?_set_self (by rw [buildTable_length]; exact r.opcode.isLt), beq_self_eq_true]
      rfl
    · rw [List.getElem?_set_ne (by rwa [ne_eq, BitVec.toNat_inj]), ih, beq_false_of_ne h]

/-- Settles O4: the entry at an opcode by induction from the last record back, and strict mode by its own test. -/
theorem lastRecordWins : Obligations.LastRecordWins := by
  refine ⟨fun rs op => ⟨buildTable_length rs, ?_⟩, fun _ => rfl, fun d => ⟨fun h => if_neg ?_, fun h => if_pos ?_⟩⟩
  · rw [buildTable_getElem?]
    cases rs.reverse.find? (·.opcode == op) <;> rfl
  · exact fun hall => Bool.false_ne_true (List.all_eq_true.mp hall none h)
  · exact List.all_eq_true.mpr fun r hr => Option.isSome_iff_ne_none.mpr fun e => h (e ▸ hr)

/-- Settles O3: STD_TABLE is a closed term. -/
theorem stdTableIsAdmitted : Obligations.StdTableIsAdmitted := by
  unfold Obligations.StdTableIsAdmitted
  decide +kernel

/-- Every record of R79's table is of a named opcode: it is not the default entry, and the encoder finds its opcode by its
pair. -/
theorem opcodeOf_of_mem_stdRecords {r : Record} (h : r ∈ stdRecords) :
    r.entry ≠ defaultEntry ∧ opcodeOf r.entry.mnemonic r.entry.mode = some r.opcode := by
  revert r
  decide +kernel

/-- Every record of R79's table stands in STD_TABLE: no two are for one opcode. -/
theorem stdTable_of_mem_stdRecords {r : Record} (h : r ∈ stdRecords) : stdTable[r.opcode.toNat]? = some r.entry := by
  revert r
  decide +kernel

/-- A legal pair has its record in R79's table. -/
theorem exists_record_of_legalPair {m : Mnemonic} {md : Mode} (h : legalPair m md = true) :
    ∃ r ∈ stdRecords, r.entry.mnemonic = m ∧ r.entry.mode = md := by
  obtain ⟨q, hq, hmd⟩ := List.any_eq_true.mp h
  have hm : m ∈ allMnemonics := by cases m <;> decide
  exact ⟨_, List.mem_flatMap.mpr ⟨m, hm, List.mem_map_of_mem hq⟩, rfl, eq_of_beq hmd⟩

/-- An entry of STD_TABLE is the default entry or stands there by a record of R79's table (R76, R77). -/
theorem mem_stdRecords_of_stdTable {op : Byte} {e : Entry} (h : stdTable[op.toNat]? = some e) (hd : e ≠ defaultEntry) :
    ⟨op, e⟩ ∈ stdRecords := by
  obtain ⟨-, -, -, -, hbuild⟩ := stdTableIsAdmitted
  rw [← hbuild, buildTable_getElem?, Option.some_inj] at h
  cases hf : stdRecords.reverse.find? (·.opcode == op) with
  | none => rw [hf] at h; exact absurd h.symm hd
  | some r =>
    rw [hf] at h
    have hop : r.opcode = op := by simpa using List.find?_some hf
    have hr : r = ⟨op, e⟩ := by rw [← hop, ← h]; rfl
    exact hr ▸ List.mem_reverse.mp (List.mem_of_find?_eq_some hf)

/-! ### The operand and its bytes (R71 to R73) -/

/-- An operand of a mode is read from its own bytes and nothing else. -/
theorem operandOf_eq_some {md : Mode} {bs rest : List Byte} {o : Operand} :
    operandOf md bs = some (o, rest) ↔ o.mode = md ∧ bs = operandBytes o ++ rest := by
  constructor
  · intro h
    unfold operandOf at h
    split at h <;> cases h <;> simp [Operand.mode, operandBytes]
  · rintro ⟨rfl, rfl⟩
    cases o <;> simp [Operand.mode, operandBytes, operandOf]

/-- A mode that lacks operand bytes has no operand (R85). -/
theorem operandOf_eq_none {md : Mode} {bs : List Byte} (h : bs.length < modeBytes md) : operandOf md bs = none := by
  rw [Option.eq_none_iff_forall_ne_some]
  rintro ⟨o, rest⟩ ho
  obtain ⟨rfl, rfl⟩ := operandOf_eq_some.mp ho
  rw [List.length_append, Laws.EncodeLength.operandBytes_length] at h
  omega

/-! ### The instruction of an entry and an operand -/

/-- The shape of a mnemonic keeps mnemonic and operand, and never makes the default entry's instruction. -/
theorem shapeOf_eq_some {m : Mnemonic} {o : Operand} {i : Instr} (h : shapeOf m o = some i) :
    i.mnemonic = m ∧ i.operand = o ∧ ∀ op, i ≠ .dflt op := by
  unfold shapeOf at h
  split at h <;> cases h <;> exact ⟨rfl, rfl, nofun⟩

/-- What is not the default entry's instruction is made of its own mnemonic and operand. -/
theorem shapeOf_mnemonic_operand {i : Instr} (h : ∀ op, i ≠ .dflt op) : shapeOf i.mnemonic i.operand = some i := by
  cases i with
  | dflt op => exact absurd rfl (h op)
  | _ => rfl

/-- An instruction is the default entry's or it has an opcode of R79. -/
theorem opcode_of_ne_dflt {i : Instr} (h : ∀ op, i ≠ .dflt op) :
    i.opcode = (opcodeOf i.mnemonic i.operand.mode).getD 0x00 := by
  cases i with
  | dflt op => exact absurd rfl (h op)
  | _ => rfl

theorem wf_of_ne_dflt {i : Instr} (h : ∀ op, i ≠ .dflt op) : i.wf = i.pairLegal := by
  cases i with
  | dflt op => exact absurd rfl (h op)
  | _ => exact Bool.and_true _

/-- What an entry that is not the default one makes of an operand (R34, R79). -/
theorem instrOfEntry_of_ne_default {e : Entry} {op : Byte} {o : Operand} {i : Instr} (hd : e ≠ defaultEntry) :
    instrOfEntry e op o = some i ↔
      i.mnemonic = e.mnemonic ∧ i.operand = o ∧ i.pairLegal = true ∧ ∀ op, i ≠ .dflt op := by
  unfold instrOfEntry instrOf
  rw [if_neg hd, Option.ite_none_right_eq_some]
  constructor
  · rintro ⟨hl, hs⟩
    obtain ⟨hm, rfl, hn⟩ := shapeOf_eq_some hs
    exact ⟨hm, rfl, by rwa [Instr.pairLegal, hm], hn⟩
  · rintro ⟨hm, rfl, hl, hn⟩
    rw [← hm]
    exact ⟨hl, shapeOf_mnemonic_operand hn⟩

/-- What the default entry makes of its opcode (R75). -/
theorem instrOfEntry_default {op : Byte} {o : Operand} {i : Instr} :
    instrOfEntry defaultEntry op o = some i ↔ .dflt op = i := by
  rw [instrOfEntry, if_pos rfl, Option.some_inj]

/-- An entry's instruction has its mnemonic, the operand read, and is legal (R34). -/
theorem instrOfEntry_eq_some {e : Entry} {op : Byte} {o : Operand} {i : Instr} (ho : o.mode = e.mode)
    (h : instrOfEntry e op o = some i) : i.mnemonic = e.mnemonic ∧ i.operand = o ∧ i.pairLegal = true := by
  by_cases hd : e = defaultEntry
  · subst hd
    obtain rfl := instrOfEntry_default.mp h
    exact ⟨rfl, (Operand.eq_implicit ho.symm).symm, rfl⟩
  · obtain ⟨hm, hop, hl, -⟩ := (instrOfEntry_of_ne_default hd).mp h
    exact ⟨hm, hop, hl⟩

/-! ### What the decoder of a table does (R74) -/

/-- What decodes: an opcode, the bytes of an operand of its entry's mode, and the instruction the entry makes of it. -/
theorem decodeWith_eq_ok {t : List Entry} {bs rest : List Byte} {i : Instr} :
    decodeWith t bs = .ok (i, rest) ↔ ∃ op e, t[op.toNat]? = some e ∧ i.operand.mode = e.mode ∧
      instrOfEntry e op i.operand = some i ∧ bs = op :: operandBytes i.operand ++ rest := by
  constructor
  · intro h
    unfold decodeWith at h
    split at h
    · cases h
    · rename_i op bs
      split at h
      · cases h
      · rename_i e he
        unfold decodeEntry at h
        split at h
        · cases h
        · rename_i o rest' ho
          obtain ⟨hmode, rfl⟩ := operandOf_eq_some.mp ho
          split at h
          · cases h
          · rename_i i' hi
            cases h
            obtain ⟨-, rfl, -⟩ := instrOfEntry_eq_some hmode hi
            exact ⟨op, e, he, hmode, hi, rfl⟩
  · rintro ⟨op, e, he, hmode, hi, rfl⟩
    have ho : operandOf e.mode (operandBytes i.operand ++ rest) = some (i.operand, rest) :=
      operandOf_eq_some.mpr ⟨hmode, rfl⟩
    simp only [List.cons_append, decodeWith, he, decodeEntry, ho, hi]

/-- An instruction cut off among its operand bytes is the truncated-instruction error (R85). -/
theorem decodeWith_eq_truncated {t : List Entry} {op : Byte} {bs : List Byte} {e : Entry}
    (he : t[op.toNat]? = some e) (h : bs.length < modeBytes e.mode) : decodeWith t (op :: bs) = .error .truncated := by
  simp only [decodeWith, he, decodeEntry, operandOf_eq_none h]

theorem modeBytes_le_two (md : Mode) : modeBytes md ≤ 2 := by cases md <;> decide

/-- Settles O5: an admitted table's entry has an operand among any two bytes, and makes a legal instruction of it. -/
theorem noOpcodeIsUndecodable : Obligations.NoOpcodeIsUndecodable := by
  intro t ha op b c rest
  obtain ⟨e, he, hok⟩ := entry_of_admitted ha op
  have hlen : ((b :: c :: rest).take (modeBytes e.mode)).length = modeBytes e.mode :=
    List.length_take_of_le ((modeBytes_le_two _).trans (Nat.le_add_left _ _))
  obtain ⟨o, ho, hmode⟩ := operandOf_of_length hlen
  obtain ⟨i, hi, hl⟩ := instrOfEntry_of_entryOk hok hmode op
  obtain ⟨hm, rfl, -⟩ := instrOfEntry_eq_some hmode hi
  obtain ⟨-, htake⟩ := operandOf_eq_some.mp ho
  have hi' : i.length = modeBytes e.mode + 1 := by rw [Instr.length, hmode, Nat.add_comm]
  refine ⟨e, i, he, hm, hmode, hl, hi'.trans (Nat.add_comm ..), decodeWith_eq_ok.mpr ⟨op, e, he, hmode, hi, ?_⟩⟩
  rw [hi', List.drop_succ_cons, List.cons_append, ← List.append_nil (operandBytes _), ← htake, List.take_append_drop]

/-! ### Encoder and decoder of STD_TABLE -/

/-- The entry of STD_TABLE at a well-formed instruction's opcode has its mode and makes that instruction of its operand. -/
theorem stdTable_opcode {i : Instr} (h : i.wf = true) : ∃ e, stdTable[i.opcode.toNat]? = some e ∧
    i.operand.mode = e.mode ∧ instrOfEntry e i.opcode i.operand = some i := by
  by_cases hn : ∃ op, i = .dflt op
  · obtain ⟨op, rfl⟩ := hn
    exact ⟨defaultEntry, eq_of_beq h, rfl, instrOfEntry_default.mpr rfl⟩
  · rw [not_exists] at hn
    rw [wf_of_ne_dflt hn] at h
    obtain ⟨r, hr, hm, hmd⟩ := exists_record_of_legalPair h
    obtain ⟨hd, hop⟩ := opcodeOf_of_mem_stdRecords hr
    have hi : i.opcode = r.opcode := by rw [opcode_of_ne_dflt hn, ← hm, ← hmd, hop]; rfl
    rw [hi]
    exact ⟨r.entry, stdTable_of_mem_stdRecords hr, hmd.symm, (instrOfEntry_of_ne_default hd).mpr ⟨hm.symm, rfl, h, hn⟩⟩

/-- What an entry of STD_TABLE makes is well-formed, and the entry stands at its opcode. -/
theorem wf_and_opcode_of_stdTable {op : Byte} {e : Entry} {i : Instr} (he : stdTable[op.toNat]? = some e)
    (hmode : i.operand.mode = e.mode) (hi : instrOfEntry e op i.operand = some i) : i.wf = true ∧ i.opcode = op := by
  by_cases hd : e = defaultEntry
  · subst hd
    obtain rfl := instrOfEntry_default.mp hi
    exact ⟨beq_of_eq he, rfl⟩
  · obtain ⟨hm, -, hl, hn⟩ := (instrOfEntry_of_ne_default hd).mp hi
    obtain ⟨-, hop⟩ := opcodeOf_of_mem_stdRecords (mem_stdRecords_of_stdTable he hd)
    refine ⟨(wf_of_ne_dflt hn).trans hl, ?_⟩
    rw [opcode_of_ne_dflt hn, hm, hmode, hop]
    rfl

/-- Settles O6: the entry at the encoder's opcode has the operand's mode, and makes the instruction of the operand. -/
theorem decodeOfEncode : Obligations.DecodeOfEncode := fun _ _ hw =>
  have ⟨e, he, hmode, hi⟩ := stdTable_opcode hw
  decodeWith_eq_ok.mpr ⟨_, e, he, hmode, hi, rfl⟩

/-- Settles O7: the bytes that decode are an opcode, which is the encoder's, and the operand's bytes. -/
theorem encodeOfDecode : Obligations.EncodeOfDecode := by
  intro bs rest i h
  obtain ⟨op, e, he, hmode, hi, rfl⟩ := decodeWith_eq_ok.mp h
  obtain ⟨hw, rfl⟩ := wf_and_opcode_of_stdTable he hmode hi
  exact ⟨hw, rfl⟩

/-- Settles O8: ten closed runs of the decoder. -/
theorem decodesSpecWords : Obligations.DecodesSpecWords := by
  unfold Obligations.DecodesSpecWords
  decide +kernel

end Sys2Proof

/-! ### The disassembler's walk (R85) and the assembler's branch offset (R84) -/

namespace Sys2Proof.Machine

/-- The walk's step over one encoded instruction. -/
theorem disassembleFrom_encode {i : Instr} (hw : i.wf = true) (fuel off : Nat) (bs : List Byte) :
    disassembleFrom stdTable (fuel + 1) off (encode i ++ bs) =
      (disassembleFrom stdTable fuel (off + i.length) bs).map ((off, i) :: ·) := by
  have hd : decodeWith stdTable (encode i ++ bs) = .ok (i, bs) := decodeOfEncode i bs hw
  rw [encode, List.cons_append] at hd ⊢
  simp only [disassembleFrom, hd]
  cases disassembleFrom stdTable fuel (off + i.length) bs <;> rfl

/-- The walk over encoded instructions leaves what follows them to the fuel that is left. -/
theorem disassembleFrom_flatMap_encode {is : List Instr} (hw : ∀ i ∈ is, i.wf = true) (fuel off : Nat) (tail : List Byte) :
    disassembleFrom stdTable (is.length + fuel) off (is.flatMap encode ++ tail) =
      (disassembleFrom stdTable fuel (off + (is.flatMap encode).length) tail).map (layout off is ++ ·) := by
  induction is generalizing off with
  | nil =>
    rw [List.length_nil, Nat.zero_add]
    exact (id_map (f := Except DecodeError) _).symm
  | cons i is ih =>
    obtain ⟨hi, his⟩ := List.forall_mem_cons.mp hw
    have hlen : (encode i).length = i.length := Laws.EncodeLength.of_encode i
    rw [List.length_cons, Nat.add_right_comm, List.flatMap_cons, List.append_assoc, disassembleFrom_encode hi, ih his,
      List.length_append, hlen, Nat.add_assoc]
    cases disassembleFrom stdTable fuel (off + (i.length + (is.flatMap encode).length)) tail <;> rfl

theorem length_le_length_flatMap_encode (is : List Instr) : is.length ≤ (is.flatMap encode).length := by
  induction is with
  | nil => exact le_rfl
  | cons i is ih =>
    rw [List.flatMap_cons, List.length_append, List.length_cons, encode, List.length_cons]
    omega

/-- The disassembler's fuel covers the encoded instructions that a buffer begins with. -/
theorem disassemble_flatMap_encode {is : List Instr} (hw : ∀ i ∈ is, i.wf = true) (tail : List Byte) :
    ∃ fuel, disassemble stdTable (is.flatMap encode ++ tail) =
      (disassembleFrom stdTable fuel (0 + (is.flatMap encode).length) tail).map (layout 0 is ++ ·) := by
  have hle : is.length ≤ (is.flatMap encode ++ tail).length :=
    (length_le_length_flatMap_encode is).trans (List.length_append ▸ Nat.le_add_right _ _)
  obtain ⟨fuel, hf⟩ := Nat.exists_eq_add_of_le hle
  rw [disassemble, hf]
  exact ⟨fuel, disassembleFrom_flatMap_encode hw fuel 0 tail⟩

/-- An encoded instruction that is cut off after its opcode is the truncated-instruction error, whatever fuel there is. -/
theorem disassembleFrom_take_encode {i : Instr} (hw : i.wf = true) {n : Nat} (h0 : 0 < n) (hn : n < i.length)
    (fuel off : Nat) : disassembleFrom stdTable fuel off ((encode i).take n) = .error .truncated := by
  obtain ⟨e, he, hmode, -⟩ := stdTable_opcode hw
  obtain ⟨k, rfl⟩ := Nat.exists_eq_add_of_lt h0
  have hlen : ((operandBytes i.operand).take (0 + k)).length < modeBytes e.mode := by
    rw [Instr.length, hmode] at hn
    rw [List.length_take]
    omega
  rw [encode, List.take_succ_cons]
  cases fuel with
  | zero => rfl
  | succ fuel => simp only [disassembleFrom, decodeWith_eq_truncated he hlen]

/-- Settles O9: the walk leaves what follows the encoded instructions, which is nothing or a part of one. -/
theorem disassemblesInstructions : Obligations.DisassemblesInstructions := by
  constructor
  · intro is hw
    obtain ⟨fuel, h⟩ := disassemble_flatMap_encode hw []
    rw [List.append_nil] at h
    rw [h]
    cases fuel <;> exact congrArg Except.ok (List.append_nil _)
  · intro is i n hws hw h0 hn
    obtain ⟨fuel, h⟩ := disassemble_flatMap_encode hws ((encode i).take n)
    rw [h, disassembleFrom_take_encode hw h0 hn]
    rfl

@[simp] theorem lo8_sext16 (b : Byte) : lo8 (sext16 b) = b := by
  apply BitVec.eq_of_getLsbD_eq
  intro k hk
  have hk' : k < 16 := by omega
  simp [lo8, sext16, BitVec.getElem_signExtend, hk, hk']

/-- A word is the extension of its low byte exactly when it reads as -128 to 127. -/
theorem sext16_lo8_eq_self_iff {d : Word} : sext16 (lo8 d) = d ↔ -128 ≤ d.toInt ∧ d.toInt ≤ 127 := by
  have := d.isLt
  rw [← BitVec.toInt_inj, sext16, BitVec.toInt_signExtend_of_le (by decide), BitVec.toInt_eq_toNat_cond,
    BitVec.toInt_eq_toNat_cond, lo8_toNat]
  split <;> split <;> omega

/-- Settles O10: the distance a branch adds is the extension of a byte, which is the offset and exists in its range. -/
theorem assemblerOffsetInvertsBranch : Obligations.AssemblerOffsetInvertsBranch := by
  constructor
  · intro pc off
    have hd : pc + 2 + sext16 off - (pc + 2) = sext16 off := by rw [add_sub_cancel_left]
    simp only [branchOffset, hd, lo8_sext16, if_true]
  · intro pc target
    rw [← sext16_lo8_eq_self_iff]
    simp [branchOffset]

/-- Settles O30: a legal pair's instruction completes or takes a fault, and any other is refused. -/
theorem execCompletesOnLegalPairs : Obligations.ExecCompletesOnLegalPairs :=
  fun _ s => ⟨fun h => exec_next_of_legal h s, fun h => exec_of_illegal h s⟩

end Sys2Proof.Machine

/-! ### No result depends on CYC (R125) -/

namespace Sys2Proof.Machine

/-- An answer whose next state, where there is one, has counted `n` cycles more. -/
def laterBy (n : Nat) : Answer → Answer
  | .next s => .next (s.addCyc n)
  | .fault f => .fault f
  | .refused r => .refused r

theorem addCyc_comm (m n : Nat) (s : State) : (s.addCyc m).addCyc n = (s.addCyc n).addCyc m :=
  congrArg (fun k => { s with cyc := k }) (Nat.add_right_comm s.cyc m n)

section
variable (n : Nat)

theorem readByte_addCyc (a : Word) (s : State) :
    readByte a (s.addCyc n) = (readByte a s).mapState (State.addCyc n) := by
  unfold readByte
  rw [portAnswer_addCyc]
  cases portAnswer s a <;> rfl

theorem pull_addCyc (s : State) : pull (s.addCyc n) = (pull s).mapState (State.addCyc n) :=
  readByte_addCyc n _ (s.setSP (s.sp + 1))

theorem resolve_addCyc (o : Operand) (s : State) :
    resolve o (s.addCyc n) = (resolve o s).mapState (State.addCyc n) := by
  have hfirst : ∀ a, readByte a ((s.addCyc n).setPC (nextPC s o)) =
      (readByte a (s.setPC (nextPC s o))).mapState (State.addCyc n) := fun a =>
    readByte_addCyc n a (s.setPC (nextPC s o))
  cases o with
  | indirectX _ | indirectY _ | indirect _ =>
    exact Res.bind_mapState (hfirst _) fun _ t _ => Res.bind_mapState (readByte_addCyc n _ t) fun _ _ _ => rfl
  | _ => rfl

theorem load_addCyc (c : Ctx) (s : State) : load c (s.addCyc n) = (load c s).mapState (State.addCyc n) := by
  unfold load
  cases c.mode with
  | accumulator | immediate | implicit | relative | indirect => rfl
  | _ => exact readByte_addCyc n _ s

theorem store_addCyc (c : Ctx) (v : Byte) (s : State) : store c v (s.addCyc n) = (store c v s).addCyc n := by
  unfold store
  cases c.mode <;> rfl

theorem readInto_addCyc {f : Byte → State → State} (c : Ctx) (s : State)
    (hf : ∀ v s, f v (s.addCyc n) = (f v s).addCyc n := by intros; rfl) :
    readInto f c (s.addCyc n) = (readInto f c s).mapState (State.addCyc n) :=
  Res.bind_mapState (load_addCyc n c s) fun v t _ => congrArg (Res.ok c) (hf v t)

theorem modify_addCyc {f g : State → Byte → Byte} (c : Ctx) (s : State)
    (hf : ∀ s m, f (s.addCyc n) m = f s m := by intros; rfl)
    (hg : ∀ s m, g (s.addCyc n) m = g s m := by intros; rfl) :
    modify f g c (s.addCyc n) = (modify f g c s).mapState (State.addCyc n) :=
  Res.bind_mapState (load_addCyc n c s) fun m t _ => by
    rw [hf, hg, store_addCyc]
    rfl

theorem decimalCheck_addCyc (c : Ctx) (s : State) :
    decimalCheck c (s.addCyc n) = (decimalCheck c s).mapState (State.addCyc n) := by
  unfold decimalCheck
  rw [addCyc_cfg, addCyc_p]
  split <;> rfl

theorem addInto_addCyc (invert : Bool) (c : Ctx) (s : State) :
    addInto invert c (s.addCyc n) = (addInto invert c s).mapState (State.addCyc n) :=
  Res.bind_mapState (decimalCheck_addCyc n c s) fun _ t _ => Res.bind_mapState (load_addCyc n c t) fun _ _ _ => rfl

theorem branch_addCyc (b : Bool) (c : Ctx) (s : State) :
    branch b c (s.addCyc n) = (branch b c s).mapState (State.addCyc n) := by
  cases b <;> rfl

theorem push_addCyc (v : Byte) (s : State) : push v (s.addCyc n) = (push v s).addCyc n := rfl

theorem trapEntry_addCyc (s : State) : trapEntry (s.addCyc n) = (trapEntry s).mapState (State.addCyc n) :=
  Res.bind_mapState (readByte_addCyc n _ s) fun lo t _ => Res.bind_mapState (readByte_addCyc n _ t) fun hi u _ => by
    simp only [push_addCyc, addCyc_pc, addCyc_p]
    rfl

theorem trapReturn_addCyc (s : State) : trapReturn (s.addCyc n) = (trapReturn s).mapState (State.addCyc n) :=
  Res.bind_mapState (pull_addCyc n s) fun p t _ => Res.bind_mapState (pull_addCyc n (t.setP p)) fun _ u _ =>
    Res.bind_mapState (pull_addCyc n u) fun _ _ _ => rfl

theorem breakTrap_addCyc (c : Ctx) (s : State) :
    breakTrap c (s.addCyc n) = (breakTrap c s).mapState (State.addCyc n) := by
  unfold breakTrap
  rw [addCyc_cfg]
  cases s.cfg.stubs with
  | fault => rfl
  | nmos => exact Res.bind_mapState (trapEntry_addCyc n s) fun _ _ _ => rfl

theorem breakReturn_addCyc (c : Ctx) (s : State) :
    breakReturn c (s.addCyc n) = (breakReturn c s).mapState (State.addCyc n) := by
  unfold breakReturn
  rw [addCyc_cfg]
  cases s.cfg.stubs with
  | fault => rfl
  | nmos => exact Res.bind_mapState (trapReturn_addCyc n s) fun _ _ _ => rfl

/-- No routine reads CYC. -/
theorem routineOf_addCyc (i : Instr) (c : Ctx) (s : State) :
    routineOf i c (s.addCyc n) = (routineOf i c s).mapState (State.addCyc n) := by
  cases i with
  | adc _ | sbc _ => exact addInto_addCyc n _ c s
  | cmp _ | cpx _ | cpy _ | and _ | ora _ | eor _ | bit _ | lda _ | ldx _ | ldy _ =>
    exact readInto_addCyc n c s
  | asl _ | lsr _ | rol _ | ror _ | inc _ | dec _ => exact modify_addCyc n c s
  | sta _ | stx _ | sty _ => exact congrArg (Res.ok c) (store_addCyc n c _ s)
  | pla | plp => exact Res.bind_mapState (pull_addCyc n s) fun _ _ _ => rfl
  | rts => exact Res.bind_mapState (pull_addCyc n s) fun _ t _ => Res.bind_mapState (pull_addCyc n t) fun _ _ _ => rfl
  | bcc _ | bcs _ | beq _ | bne _ | bmi _ | bpl _ | bvc _ | bvs _ => exact branch_addCyc n _ c s
  | brk => exact breakTrap_addCyc n c s
  | rti => exact breakReturn_addCyc n c s
  | _ => rfl

theorem finish_addCyc (m : Mnemonic) (c : Ctx) (s : State) : finish m c (s.addCyc n) = (finish m c s).addCyc n :=
  addCyc_comm n _ (s.setPC _)

/-- An instruction answers the same, but for the cycles counted before it. -/
theorem exec_addCyc (i : Instr) (s : State) : exec i (s.addCyc n) = laterBy n (exec i s) := by
  cases hl : i.pairLegal with
  | false => rw [exec_of_illegal hl, exec_of_illegal hl, laterBy]
  | true =>
    have hrun : (resolve i.operand (s.addCyc n)).bind (routineOf i) =
        ((resolve i.operand s).bind (routineOf i)).mapState (State.addCyc n) :=
      Res.bind_mapState (resolve_addCyc n _ s) fun c t _ => routineOf_addCyc n i c t
    rw [exec_of_legal hl, exec_of_legal hl, hrun]
    cases (resolve i.operand s).bind (routineOf i) with
    | ok c t => exact congrArg Host.Outcome.next (finish_addCyc n _ c t)
    | fail f a t => rfl

theorem readBytes_addCyc (k : Nat) (a : Word) (s : State) :
    readBytes k a (s.addCyc n) = (readBytes k a s).mapState (State.addCyc n) := by
  induction k generalizing a s with
  | zero => rfl
  | succ k ih =>
    exact Res.bind_mapState (readByte_addCyc n a s) fun _ t _ => Res.bind_mapState (ih _ t) fun _ _ _ => rfl

theorem fetch_addCyc (s : State) : fetch (s.addCyc n) = (fetch s).mapState (State.addCyc n) := by
  refine Res.bind_mapState (readByte_addCyc n s.pc s) fun op t _ => ?_
  rw [addCyc_cfg, addCyc_pc]
  cases t.cfg.table[op.toNat]? with
  | none => rfl
  | some e =>
    refine Res.bind_mapState (readBytes_addCyc n _ _ t) fun bs u _ => ?_
    cases decodeEntry e op bs <;> rfl

theorem chargeBase_addCyc (k : Nat) (s : State) : chargeBase k (s.addCyc n) = (chargeBase k s).addCyc n := by
  unfold chargeBase
  rw [addCyc_halted]
  cases s.halted with
  | true => rfl
  | false => exact addCyc_comm n k s

theorem afterExec_laterBy (k : Nat) (r : Answer) : afterExec k (laterBy n r) = laterBy n (afterExec k r) := by
  cases r with
  | next s => exact congrArg Host.Outcome.next (chargeBase_addCyc n k s)
  | _ => rfl

theorem runStep_addCyc (s : State) : runStep (s.addCyc n) = laterBy n (runStep s) := by
  have hf : fetch (s.addCyc n).clearBus = (fetch s.clearBus).mapState (State.addCyc n) := fetch_addCyc n s.clearBus
  unfold runStep
  rw [hf]
  rcases fetch s.clearBus with ⟨_ | ⟨e, i⟩, t⟩ | ⟨f, a, t⟩
  · rfl
  · exact (congrArg (afterExec e.base) (exec_addCyc n i t)).trans (afterExec_laterBy n _ _)
  · rfl

theorem step_addCyc (s : State) : step (s.addCyc n) = laterBy n (step s) := by
  cases ha : admitted s.cfg.table with
  | false => rw [step_of_not_admitted ha, step_of_not_admitted (s := s.addCyc n) ha, laterBy]
  | true =>
    cases hh : s.halted with
    | true => rw [step_of_halted ha hh, step_of_halted (s := s.addCyc n) ha hh, laterBy]
    | false => rw [step_of_running ha hh, step_of_running (s := s.addCyc n) ha hh, runStep_addCyc]

end

/-- Settles O20: fetch, resolver and routine run alike whatever CYC is, and what they count is added to it. -/
theorem cyclesDoNotInterfere : Obligations.CyclesDoNotInterfere := fun s n =>
  (step_addCyc n s).trans (by cases step s <;> rfl)

end Sys2Proof.Machine

/-! ### What a step fetches and counts (R57, R100, R124, R126) -/

namespace Sys2Proof.Machine

/-- The entry fetched is the table's, at the opcode that the port answers at PC. -/
theorem entry_of_fetch {s t : State} {e : Entry} {i : Instr} (h : fetch s = .ok (some (e, i)) t) :
    ∃ op, portAnswer s s.pc = some op ∧ s.cfg.table[op.toNat]? = some e := by
  obtain ⟨op, u, hop, h⟩ := Res.bind_eq_ok.mp h
  obtain ⟨hans, rfl⟩ := readByte_eq_ok.mp hop
  rw [logRead_cfg] at h
  cases he : s.cfg.table[op.toNat]? with
  | none => rw [he] at h; cases h
  | some e' =>
    rw [he] at h
    obtain ⟨bs, v, -, h⟩ := Res.bind_eq_ok.mp h
    split at h
    · cases h; exact ⟨op, hans, he⟩
    · cases h

theorem chargeBase_of_running {n : Nat} {s : State} (h : s.halted = false) : chargeBase n s = s.addCyc n :=
  if_neg (by rw [h]; decide)

/-- The entries of an admitted table have a base count of at least 1 (R80). -/
theorem one_le_base_of_admitted {t : List Entry} {k : Nat} {e : Entry} (ha : admitted t = true) (h : t[k]? = some e) :
    1 ≤ e.base := by
  have hok := (admitted_iff.mp ha).2 e (List.mem_of_getElem? h)
  simp only [entryOk, Bool.and_eq_true, decide_eq_true_eq] at hok
  exact hok.2

/-- Settles O19: the fetch and the reads and writes count nothing, the instruction counts up to two cycles, and the base
count is added to those. -/
theorem stepAddsBaseCycles : Obligations.StepAddsBaseCycles := by
  intro s t hrun hs hgo
  rcases runStep_eq_next (runStep_of_step hrun hs) with ⟨e, i, u, v, hf, he, rfl⟩ | ⟨f, a, u, -, rfl⟩
  · obtain ⟨op, hop, hentry⟩ := entry_of_fetch hf
    have hfetch : Reads s.pc s.clearBus (fetch s.clearBus) := Reads.fetch _
    rw [hf] at hfetch
    rcases exec_phases he with ⟨x, y, pc, k, hr, hw, hk, rfl⟩ | ⟨f, a, x, -, rfl⟩
    · have hcyc : y.cyc = s.cyc := hw.cyc.trans (hr.cyc.trans hfetch.cyc)
      have hhalt : y.halted = false := hw.halted.trans (hr.halted.trans (hfetch.halted.trans hrun))
      refine ⟨op, e, k, hop, hentry, one_le_base_of_admitted (step_eq_next hs).1 hentry, hk, ?_⟩
      rw [chargeBase_of_running (s := (y.setPC pc).addCyc k) hhalt, addCyc_cyc, addCyc_cyc, setPC_cyc, hcyc]
      omega
    · cases hgo
  · cases hgo

theorem addrsFrom_succ (a : Word) (n : Nat) : addrsFrom a (n + 1) = a :: addrsFrom (a + 1) n := by
  have hnext : ∀ k, a + BitVec.ofNat 16 (k + 1) = a + 1 + BitVec.ofNat 16 k := fun k => by
    rw [BitVec.add_assoc, Nat.add_comm, BitVec.ofNat_add]
    rfl
  rw [addrsFrom, List.range_succ_eq_map, List.map_cons, List.map_map]
  exact congrArg₂ List.cons (BitVec.add_zero a) (List.map_congr_left fun k _ => hnext k)

theorem seesAll_cons_eq_some {s u : State} {a : Word} {as : List Word} {r : List Byte}
    (h : seesAll (a :: as) s = some (r, u)) :
    ∃ b bs t, sees s a = some (b, t) ∧ seesAll as t = some (bs, u) ∧ r = b :: bs := by
  unfold seesAll at h
  split at h
  · cases h
  · rename_i b t hb
    split at h
    · cases h
    · rename_i bs v hbs
      cases h
      exact ⟨b, bs, t, hb, hbs, rfl⟩

/-- Reads in order that are all answered are what the fetch reads. -/
theorem readBytes_of_seesAll {n : Nat} {a : Word} {s t : State} {bs : List Byte}
    (h : seesAll (addrsFrom a n) s = some (bs, t)) : readBytes n a s = .ok bs t := by
  induction n generalizing a s bs with
  | zero => cases h; rfl
  | succ n ih =>
    rw [addrsFrom_succ] at h
    obtain ⟨b, bs', u, hb, hbs, rfl⟩ := seesAll_cons_eq_some h
    rw [readBytes, readByte_of_sees hb, Res.bind_ok, ih hbs, Res.bind_ok]

/-- A fetch whose reads are answered gives the entry at the opcode and the instruction that the bytes decode to. -/
theorem fetch_of_seesAll {s t : State} {e : Entry} {i : Instr} {op : Byte} {bs rest : List Byte}
    (h : seesAll (addrsFrom s.pc (1 + modeBytes e.mode)) s = some (op :: bs, t))
    (he : s.cfg.table[op.toNat]? = some e) (hd : decodeWith s.cfg.table (op :: bs) = .ok (i, rest)) :
    fetch s = .ok (some (e, i)) t := by
  rw [Nat.add_comm, addrsFrom_succ] at h
  obtain ⟨b, bs', u, hb, hbs, hr⟩ := seesAll_cons_eq_some h
  cases hr
  obtain ⟨-, rfl⟩ := sees_eq_some.mp hb
  simp only [decodeWith, he] at hd
  simp only [fetch, readByte_of_sees hb, Res.bind_ok, logRead_cfg, logRead_pc, he, readBytes_of_seesAll hbs, hd]

/-- Settles O11: the answered reads are the fetch, and what the step does after `exec` is the base count. -/
theorem stepRunsDecodedInstr : Obligations.StepRunsDecodedInstr := by
  intro s t e i op bs rest hrun ha hsees he hd
  have hfetch : fetch s.clearBus = .ok (some (e, i)) t := fetch_of_seesAll (s := s.clearBus) hsees he hd
  have hstep : step s = afterExec e.base (exec i t) := by rw [step_of_running ha hrun, runStep, hfetch]
  rw [hstep]
  cases exec i t <;> rfl

/-- Settles O12: an accepted step of a halted machine answers its own state. -/
theorem haltedStepDoesNothing : Obligations.HaltedStepDoesNothing := by
  intro s ha hh
  have hstep := step_of_halted ha hh
  exact ⟨hstep, by simp only [stepAck, hstep, hh, if_true]⟩

end Sys2Proof.Machine

/-! ### The resolvers (R101 to R114) -/

namespace Sys2Proof.Machine

/-- Settles O22: the context that an answered resolver leaves has the fields of the formulas. -/
theorem resolversFollowTheirFormulas : Obligations.ResolversFollowTheirFormulas := fun _ _ _ _ hp =>
  ⟨_, resolve_of_pointer hp, rfl, rfl, rfl, rfl, rfl, fun _ ho => by subst ho; rfl, fun _ ho => by subst ho; rfl⟩

/-- Settles O23: the pointer is read at the two addresses, and it is the effective address. -/
theorem indirectStaysInItsPage : Obligations.IndirectStaysInItsPage := by
  intro s t u hb lb lo hi hiaddr haddr hlo hhi
  have hnext : indirectNext (hiLo hb lb) = hiaddr := by rw [haddr, indirectNext, lo8_hiLo, hi8_hiLo]
  have hp : pointer s (.indirect (hiLo hb lb)) = some (hiLo hi lo, u) :=
    seesPair_eq_some.mpr ⟨lo, hi, t, hlo, hnext ▸ hhi, rfl⟩
  exact ⟨_, resolve_of_pointer hp, rfl, rfl⟩

/-- Settles O24: both say that the sum of the low bytes carries into the page. -/
theorem lowByteCarryIsPageCrossing : Obligations.LowByteCarryIsPageCrossing := by
  intro base y
  have hbase := base.isLt
  have hy := y.isLt
  have hcarry : hi8 (base + zext16 y) = hi8 base ↔ ¬ 0xFF < (lo8 base).toNat + y.toNat := by
    rw [← BitVec.toNat_inj, hi8_toNat, hi8_toNat, lo8_toNat, BitVec.toNat_add, zext16_toNat]
    omega
  rw [Bool.eq_iff_iff, decide_eq_true_iff, pagesDiffer, bne_iff_ne, ne_eq, hcarry, not_not]

end Sys2Proof.Machine

/-! ### The branches (R122, R254, R255) -/

namespace Sys2Proof.Machine

/-- The end of a branch that is taken (R122): no penalty of R123 is among the cycles it adds. -/
theorem finish_taken {c : Ctx} (hm : c.mode = .relative) (hx : c.extra = 0) (ht : c.taken = true) (m : Mnemonic)
    (t : State) : finish m c t = (t.setPC (t.pc + sext16 c.off)).addCyc (if c.pcCross then 2 else 1) := by
  have hpen : penalty t.cfg.penaltyClass m c = 0 := by simp [penalty, hm, canCross, bitNat]
  rw [finish, hx, hpen, branchCycles, ht, if_pos rfl, if_pos rfl]
  cases c.pcCross <;> rfl

/-- A branch on a condition that P decides (R254). -/
theorem run_branch (m : Mnemonic) (hl : legalPair m .relative = true) (cond : Byte → Bool) (off : Byte) (s : State) :
    run m (.relative off) (fun c s => branch (cond s.p) c s) s = .next (branched s off (cond s.p)) := by
  have hp : pointer s (.relative off) = some (0, s) := rfl
  have hcond : cond (resolved s (.relative off) s).p = cond s.p := rfl
  rw [run_of_legal hl, resolve_of_pointer hp, Res.bind_ok, hcond]
  cases cond s.p with
  | false => exact congrArg Host.Outcome.next (finish_plain rfl rfl rfl m _)
  | true => exact congrArg Host.Outcome.next (finish_taken rfl rfl rfl m _)

/-- Settles O45: the eight are one branch, on a flag or its complement. -/
theorem branchResults : Obligations.BranchResults := by
  intro off s
  simp only [beq_false, beq_true]
  exact ⟨run_branch .BPL rfl (!flag .n ·) off s, run_branch .BMI rfl (flag .n ·) off s,
    run_branch .BVC rfl (!flag .v ·) off s, run_branch .BVS rfl (flag .v ·) off s,
    run_branch .BCC rfl (!flag .c ·) off s, run_branch .BCS rfl (flag .c ·) off s,
    run_branch .BNE rfl (!flag .z ·) off s, run_branch .BEQ rfl (flag .z ·) off s⟩

end Sys2Proof.Machine

/-! ### The adder (R141, R142) -/

namespace Sys2Proof.Machine

/-- Bit 7 of a byte is its sign bit: the upper half of the unsigned values. -/
theorem getLsbD_seven (v : Byte) : v.getLsbD 7 = decide (128 ≤ v.toNat) := v.msb_eq_decide

theorem bitNat_le_one (b : Bool) : bitNat b ≤ 1 := by cases b <;> decide

theorem xor_0xFF_toNat (m : Byte) : (m ^^^ 0xFF).toNat = 255 - m.toNat :=
  (congrArg BitVec.toNat (BitVec.xor_allOnes (x := m))).trans BitVec.toNat_not

/-- The sign `z` differs from both `x` and `y`. -/
theorem xor_and_xor_iff : ∀ x y z : Bool, ((x ^^ z) && (y ^^ z)) = true ↔ x = y ∧ z ≠ x := by decide

section
variable (a m : Byte) (cin : Bool)

/-- Nine bits hold the sum of two bytes and a carry. -/
theorem sum9_toNat : (a.setWidth 9 + m.setWidth 9 + (if cin then 1 else 0) : BitVec 9).toNat =
    a.toNat + m.toNat + bitNat cin := by
  have ha := a.isLt
  have hm := m.isLt
  have hc : (if cin then 1 else 0 : BitVec 9).toNat = bitNat cin := by cases cin <;> rfl
  have hle := bitNat_le_one cin
  simp only [BitVec.toNat_add, BitVec.toNat_setWidth, hc]
  omega

theorem addCore_result_toNat : (addCore a m cin).1.toNat = (a.toNat + m.toNat + bitNat cin) % 256 :=
  (BitVec.toNat_setWidth ..).trans (congrArg (· % 256) (sum9_toNat a m cin))

/-- The carry is the top bit of the nine. -/
theorem addCore_carry : (addCore a m cin).2.1 = decide (256 ≤ a.toNat + m.toNat + bitNat cin) := by
  rw [← sum9_toNat]
  exact (a.setWidth 9 + m.setWidth 9 + (if cin then 1 else 0) : BitVec 9).msb_eq_decide

/-- Overflow, from the three signs. -/
theorem addCore_overflow : (addCore a m cin).2.2 = true ↔
    a.getLsbD 7 = m.getLsbD 7 ∧ (addCore a m cin).1.getLsbD 7 ≠ a.getLsbD 7 := by
  have hsigns : (addCore a m cin).2.2 =
      ((a.getLsbD 7 ^^ (addCore a m cin).1.getLsbD 7) && (m.getLsbD 7 ^^ (addCore a m cin).1.getLsbD 7)) := by
    simp only [addCore, BitVec.getLsbD_and, BitVec.getLsbD_xor]
  rw [hsigns, xor_and_xor_iff]

/-- Equal signs in and another out is a signed sum that no byte holds. -/
theorem addCore_signs_iff_out_of_range :
    (a.getLsbD 7 = m.getLsbD 7 ∧ (addCore a m cin).1.getLsbD 7 ≠ a.getLsbD 7) ↔
      a.toInt + m.toInt + (bitNat cin : Int) < -128 ∨ 127 < a.toInt + m.toInt + (bitNat cin : Int) := by
  have ha := a.isLt
  have hm := m.isLt
  have hle := bitNat_le_one cin
  simp only [getLsbD_seven, addCore_result_toNat, BitVec.toInt_eq_toNat_cond, ne_eq, decide_eq_decide]
  split <;> split <;> omega

end

/-- Settles O26: the nine-bit sum is the integer sum, and the overflow is read off the signs. -/
theorem adderIsTheIntegerSum : Obligations.AdderIsTheIntegerSum := fun a m cin =>
  ⟨addCore_result_toNat a m cin, by rw [addCore_carry, decide_eq_true_iff], addCore_overflow a m cin,
    (addCore_overflow a m cin).trans (addCore_signs_iff_out_of_range a m cin)⟩

/-- Settles O27: the one's complement of `m` is `255 - m`, so the sum is 256 above the difference. -/
theorem complementSumIsSubtraction : Obligations.ComplementSumIsSubtraction := by
  intro a m cin
  have ha := a.isLt
  have hm := m.isLt
  have hle := bitNat_le_one cin
  have hborrow : (if cin then 0 else 1 : Byte).toNat = 1 - bitNat cin := by cases cin <;> rfl
  constructor
  · rw [← BitVec.toNat_inj, addCore_result_toNat, xor_0xFF_toNat, BitVec.toNat_sub, BitVec.toNat_sub, hborrow]
    omega
  · rw [addCore_carry, decide_eq_true_iff, xor_0xFF_toNat]
    omega

end Sys2Proof.Machine

/-! ### The compare (R143) -/

namespace Sys2Proof.Machine

section
variable (less : Bool) (reg m p : Byte)

/-- One bit of P after a compare: N, C, Z, or what it was. -/
theorem compareFlags_bit {k : Nat} (hk : k < 8) : (compareFlags less reg m p).getLsbD k =
    if k = 7 then (if less then decide (reg < m) else (reg - m).getLsbD 7)
    else if k = 0 then decide (m ≤ reg) else if k = 1 then reg == m else p.getLsbD k := by
  rw [compareFlags, setFlag_bit _ _ _ hk, setFlag_bit _ _ _ hk, setFlag_bit _ _ _ hk]
  rfl

theorem flag_z_compareFlags : flag .z (compareFlags less reg m p) = decide (reg.toNat = m.toNat) := by
  refine (compareFlags_bit less reg m p (k := 1) (by decide)).trans ?_
  simp only [BitVec.toNat_inj]
  rfl

theorem flag_c_compareFlags : flag .c (compareFlags less reg m p) = decide (m.toNat ≤ reg.toNat) :=
  compareFlags_bit less reg m p (k := 0) (by decide)

theorem flag_n_compareFlags : flag .n (compareFlags less reg m p) =
    if less then decide (reg.toNat < m.toNat) else (reg - m).getLsbD 7 :=
  compareFlags_bit less reg m p (k := 7) (by decide)

/-- N is all that the policy decides. -/
theorem compareFlags_policies_eq_iff : compareFlags true reg m p = compareFlags false reg m p ↔
    decide (reg.toNat < m.toNat) = (reg - m).getLsbD 7 := by
  constructor
  · intro h
    have hn := congrArg (flag .n) h
    rwa [flag_n_compareFlags, flag_n_compareFlags, if_pos rfl, if_neg (by decide)] at hn
  · intro h
    simp only [compareFlags, BitVec.lt_def, h, if_true, Bool.false_eq_true, if_false]

/-- The sign of the wrapped difference says "less" exactly when a signed byte holds the difference. -/
theorem less_eq_sign_iff : decide (reg.toNat < m.toNat) = (reg - m).getLsbD 7 ↔
    -128 ≤ (reg.toNat : Int) - m.toNat ∧ (reg.toNat : Int) - m.toNat ≤ 127 := by
  have hreg := reg.isLt
  have hm := m.isLt
  rw [getLsbD_seven, decide_eq_decide, BitVec.toNat_sub]
  omega

end

/-- Settles O28, flag by flag; the policies differ in N alone. -/
theorem compareFollowsItsPolicy : Obligations.CompareFollowsItsPolicy := fun reg m p =>
  ⟨fun less => ⟨flag_z_compareFlags less reg m p, flag_c_compareFlags less reg m p, fun k hlo hhi => by
      rw [compareFlags_bit less reg m p (by omega), if_neg (by omega), if_neg (by omega), if_neg (by omega)]⟩,
    flag_n_compareFlags true reg m p, flag_n_compareFlags false reg m p,
    (compareFlags_policies_eq_iff reg m p).trans (less_eq_sign_iff reg m)⟩

end Sys2Proof.Machine

/-! ### ADC, SBC and the compares, where their reads are answered (R140, R142, R144 to R146) -/

namespace Sys2Proof.Machine

theorem decimalCheck_passes {s : State} (h : s.cfg.decimal = .binary ∨ flag .d s.p = false) (c : Ctx) :
    decimalCheck c s = .ok () s :=
  if_neg fun ⟨hpol, hd⟩ => h.elim (fun hb => nomatch hb.symm.trans hpol) fun hf => nomatch hf.symm.trans hd

section
variable {mn : Mnemonic} {o : Operand} {s t u : State} {ptr : Word} {m : Byte}

/-- ADC and SBC past the support check. `v` is the byte added: the operand, or its complement. -/
theorem run_addInto (hp : pointer s o = some (ptr, t)) (h : operandSeen s o ptr t = some (m, u))
    (hd : s.cfg.decimal = .binary ∨ flag .d s.p = false) (hl : legalPair mn o.mode = true) (invert : Bool) {v : Byte}
    (hv : (if invert then m ^^^ 0xFF else m) = v) :
    run mn o (addInto invert) s = .next { advanced s mn o ptr u with
      a := (addCore s.a v (flag .c s.p)).1
      p := adderFlags (addCore s.a v (flag .c s.p)) s.p } := by
  have hu := state_of_operandSeen hp h
  have hcheck : decimalCheck (ctxOf s o ptr) (resolved s o t) = .ok () (resolved s o t) :=
    decimalCheck_passes (by rw [state_of_pointer hp]; exact hd) _
  have hb : (resolve o s).bind (addInto invert) = .ok (ctxOf s o ptr)
      (((resolved s o u).setA (addCore s.a v (flag .c s.p)).1).setP (adderFlags (addCore s.a v (flag .c s.p)) s.p)) := by
    rw [resolve_of_pointer hp, Res.bind_ok, addInto, hcheck, Res.bind_ok, load_of_operandSeen hp h, Res.bind_ok, hv, hu]
    rfl
  have hc : (resolved s o u).cfg = s.cfg := (resolved_cfg s o u).trans (cfg_of_operandSeen hp h)
  rw [run_of_legal hl, hb]
  exact congrArg Host.Outcome.next (finish_ctxOf (((setP_cfg _ _).trans (setA_cfg _ _)).trans hc) mn o ptr)

/-- A compare with a register that the reads leave as it was. -/
theorem run_compareWith (hp : pointer s o = some (ptr, t)) (h : operandSeen s o ptr t = some (m, u))
    (hl : legalPair mn o.mode = true) {reg : State → Byte} (hreg : reg (resolved s o u) = reg s) :
    run mn o (readInto (compareWith reg)) s = .next { advanced s mn o ptr u with
      p := compareFlags (s.cfg.cmpN == .unsignedLess) (reg s) m s.p } := by
  have hp' : (resolved s o u).p = s.p := (congrArg State.p (state_of_operandSeen hp h) :)
  rw [run_readInto hl hp h (compareWith reg) fun _ _ => rfl, compareWith, hreg, hp', resolved_cfg, cfg_of_operandSeen hp h]
  rfl

end

/-- Settles O31: both instructions are one routine, on the operand and on its complement. -/
theorem adcAndSbcResults : Obligations.AdcAndSbcResults := fun _ _ _ _ _ _ hp h hd =>
  ⟨fun hl => run_addInto hp h hd hl false rfl, fun hl => run_addInto hp h hd hl true rfl⟩

/-- Settles O33: the three are one routine, on the register of each. -/
theorem compareResults : Obligations.CompareResults := fun _ _ _ _ _ _ hp h =>
  have hu := state_of_operandSeen hp h
  ⟨fun hl => run_compareWith hp h hl (reg := State.a) (congrArg State.a hu :),
    fun hl => run_compareWith hp h hl (reg := State.x) (congrArg State.x hu :),
    fun hl => run_compareWith hp h hl (reg := State.y) (congrArg State.y hu :)⟩

end Sys2Proof.Machine

/-! ### AND, ORA, EOR and BIT, where their reads are answered (R160 to R163) -/

namespace Sys2Proof.Machine

section
variable {mn : Mnemonic} {o : Operand} {s t u : State} {ptr : Word} {m : Byte}

/-- A read instruction that puts `op` of A and the operand into A, with N and Z following it. -/
theorem run_updateA (hp : pointer s o = some (ptr, t)) (h : operandSeen s o ptr t = some (m, u))
    (hl : legalPair mn o.mode = true) (op : Byte → Byte → Byte) :
    run mn o (readInto fun m s => s.updateA (op s.a m)) s = .next { advanced s mn o ptr u with
      a := op s.a m, p := setNZ (op s.a m) s.p } := by
  refine (run_readInto hl hp h (fun m s => s.updateA (op s.a m)) fun _ _ => rfl).trans ?_
  rw [state_of_operandSeen hp h]
  rfl

/-- BIT writes P alone, from A and the operand (R163). -/
theorem exec_bit_of_operandSeen (hp : pointer s o = some (ptr, t)) (h : operandSeen s o ptr t = some (m, u))
    (hl : legalPair .BIT o.mode = true) :
    exec (.bit o) s = .next { advanced s .BIT o ptr u with p := bitFlags s.a m s.p } := by
  refine (run_readInto hl hp h (fun m s => s.setP (bitFlags s.a m s.p)) fun _ _ => rfl).trans ?_
  rw [state_of_operandSeen hp h]
  rfl

end

/-- One bit of P after BIT: V, N, Z, or what it was. -/
theorem bitFlags_bit (a m p : Byte) {k : Nat} (hk : k < 8) : (bitFlags a m p).getLsbD k =
    if k = 6 then m.getLsbD 6 else if k = 7 then m.getLsbD 7 else if k = 1 then a &&& m == 0 else p.getLsbD k := by
  rw [bitFlags, setFlag_bit _ _ _ hk, setFlag_bit _ _ _ hk, setFlag_bit _ _ _ hk]
  rfl

/-- Settles O34: the three are one routine, on the operation of each. -/
theorem logicResults : Obligations.LogicResults := fun _ _ _ _ _ _ hp h =>
  ⟨fun hl => run_updateA hp h hl (· &&& ·), fun hl => run_updateA hp h hl (· ||| ·),
    fun hl => run_updateA hp h hl (· ^^^ ·)⟩

/-- Settles O35: the P that BIT writes, bit by bit. -/
theorem bitResult : Obligations.BitResult := fun _ s _ _ _ m hp h hl =>
  have hbit {k : Nat} (hk : k < 8) := bitFlags_bit s.a m s.p hk
  ⟨bitFlags s.a m s.p, exec_bit_of_operandSeen hp h hl, hbit (k := 1) (by decide), hbit (k := 7) (by decide),
    hbit (k := 6) (by decide), fun _ hk h7 h6 h1 => by rw [hbit hk, if_neg h6, if_neg h7, if_neg h1]⟩

end Sys2Proof.Machine

/-! ### Shifts and rotates as arithmetic (R180 to R183) -/

namespace Sys2Proof.Machine

/-- Bit 0 of a byte says that it is odd. -/
theorem getLsbD_zero (v : Byte) : v.getLsbD 0 = decide (v.toNat % 2 = 1) := v.toNat.testBit_zero

theorem shiftLeft_result_toNat (m : Byte) : (shiftLeft m).result.toNat = 2 * m.toNat % 256 := by
  rw [shiftLeft, BitVec.toNat_shiftLeft, Nat.shiftLeft_eq, Nat.mul_comm]

theorem shiftRight_result_toNat (m : Byte) : (shiftRight m).result.toNat = m.toNat / 2 := by
  rw [shiftRight, BitVec.toNat_ushiftRight, Nat.shiftRight_eq_div_pow]

/-- A carry that enters at a bit that is free is added. -/
theorem or_carry_toNat {v : Byte} {k : Nat} (hk : k < 8) (hfree : v.getLsbD k = false) (cin : Bool) :
    (v ||| (if cin then BitVec.twoPow 8 k else 0x00)).toNat = v.toNat + 2 ^ k * bitNat cin := by
  cases cin with
  | false => exact congrArg BitVec.toNat BitVec.or_zero
  | true =>
    have hand : v &&& BitVec.twoPow 8 k = 0 := by rw [BitVec.and_twoPow, hfree]; rfl
    rw [if_pos rfl, ← BitVec.add_eq_or_of_and_eq_zero _ _ hand, BitVec.toNat_add_of_and_eq_zero hand,
      BitVec.toNat_twoPow_of_lt hk]
    exact congrArg (v.toNat + ·) (Nat.mul_one _).symm

section
variable (cin : Bool) (m : Byte)

/-- Bit 0, where the old C enters, is free after the shift. -/
theorem rotateLeft_result_toNat : (rotateLeft cin m).result.toNat = (2 * m.toNat + bitNat cin) % 256 := by
  have hsum : (rotateLeft cin m).result.toNat = (shiftLeft m).result.toNat + 1 * bitNat cin :=
    or_carry_toNat (k := 0) (by decide) (by simp) cin
  have hle := bitNat_le_one cin
  rw [hsum, shiftLeft_result_toNat]
  omega

/-- Bit 7, where the old C enters, is free after the shift. -/
theorem rotateRight_result_toNat : (rotateRight cin m).result.toNat = m.toNat / 2 + 128 * bitNat cin := by
  have hsum : (rotateRight cin m).result.toNat = (shiftRight m).result.toNat + 128 * bitNat cin :=
    or_carry_toNat (k := 7) (by decide) (by simp) cin
  rw [hsum, shiftRight_result_toNat]

/-- The nine bits of the byte and C go round: the bit that left at the top comes back there. -/
theorem rotateRight_rotateLeft : rotateRight (rotateLeft cin m).carry (rotateLeft cin m).result = ⟨m, cin⟩ := by
  have hresult : (rotateRight (rotateLeft cin m).carry (rotateLeft cin m).result).result = m := by
    have hle := bitNat_le_one cin
    have htop : bitNat (rotateLeft cin m).carry = if 128 ≤ m.toNat then 1 else 0 := by
      simp only [rotateLeft, getLsbD_seven, bitNat, decide_eq_true_eq]
    rw [← BitVec.toNat_inj, rotateRight_result_toNat, rotateLeft_result_toNat, htop]
    split <;> omega
  have hcarry : (rotateLeft cin m).result.getLsbD 0 = cin := by
    cases cin <;> simp [rotateLeft]
  exact congrArg₂ Shifted.mk hresult hcarry

end

/-- Settles O29: a rotate is the shift with the old C added at the bit that the shift freed. -/
theorem shiftsAreArithmetic : Obligations.ShiftsAreArithmetic := fun m cin =>
  ⟨⟨shiftLeft_result_toNat m, getLsbD_seven m⟩, ⟨shiftRight_result_toNat m, getLsbD_zero m⟩,
    ⟨rotateLeft_result_toNat cin m, getLsbD_seven m⟩, ⟨rotateRight_result_toNat cin m, getLsbD_zero m⟩,
    rotateRight_rotateLeft cin m⟩

end Sys2Proof.Machine

/-! ### The shifts, INC and DEC, where their reads are answered, and the register instructions (R121, R180 to R189,
R216 to R221) -/

namespace Sys2Proof.Machine

section
variable {mn : Mnemonic} {o : Operand} {s t u : State} {ptr : Word} {m : Byte}

/-- A read-modify-write instruction in a memory mode, whose result and flags are made of P and the operand: one write at
the effective address, then P. -/
theorem run_modify_inMemory (hp : pointer s o = some (ptr, t)) (h : operandSeen s o ptr t = some (m, u))
    (hm : inMemory o = true) (hl : legalPair mn o.mode = true) (f g : Byte → Byte → Byte) :
    run mn o (modify (fun s m => f s.p m) fun s m => g s.p m) s = .next
      { writeByte (effAddr s o ptr) (f s.p m) (advanced s mn o ptr u) with p := g s.p m } := by
  have hu : (resolved s o u).p = s.p := (congrArg State.p (state_of_operandSeen hp h) :)
  rw [run_modify hl hp h, store_of_inMemory hm, hu]
  rfl

/-- A shift or rotate in a memory mode: the old C is read before C is written (R325). -/
theorem run_shift_inMemory (hp : pointer s o = some (ptr, t)) (h : operandSeen s o ptr t = some (m, u))
    (hm : inMemory o = true) (hl : legalPair mn o.mode = true) (r : Bool → Byte → Shifted) :
    run mn o (modify (fun s m => (r (flag .c s.p) m).result) fun s m => shiftFlags (r (flag .c s.p) m) s.p) s = .next
      { writeByte (effAddr s o ptr) (r (flag .c s.p) m).result (advanced s mn o ptr u) with
        p := shiftFlags (r (flag .c s.p) m) s.p } :=
  run_modify_inMemory hp h hm hl (fun p m => (r (flag .c p) m).result) fun p m => shiftFlags (r (flag .c p) m) p

end

/-- A shift or rotate in Accumulator mode (R121): A is the operand, and the result goes to A. -/
theorem run_shift_accumulator (mn : Mnemonic) (hl : legalPair mn .accumulator = true) (r : Bool → Byte → Shifted)
    (s : State) :
    run mn .accumulator (modify (fun s m => (r (flag .c s.p) m).result) fun s m => shiftFlags (r (flag .c s.p) m) s.p) s =
      .next { s with
        pc := s.pc + 1, a := (r (flag .c s.p) s.a).result, p := shiftFlags (r (flag .c s.p) s.a) s.p } := by
  rw [run_of_legal hl]
  exact congrArg Host.Outcome.next (finish_plain rfl rfl rfl _ _)

/-- Settles O38: the four are one routine; a shift takes no notice of the old C. -/
theorem memoryShiftResults : Obligations.MemoryShiftResults := fun _ _ _ _ _ _ hp h hm =>
  ⟨fun hl => run_shift_inMemory hp h hm hl fun _ => shiftLeft, fun hl => run_shift_inMemory hp h hm hl fun _ => shiftRight,
    fun hl => run_shift_inMemory hp h hm hl rotateLeft, fun hl => run_shift_inMemory hp h hm hl rotateRight⟩

/-- Settles O39: the four are one routine, as in a memory mode. -/
theorem accumulatorShiftResults : Obligations.AccumulatorShiftResults := fun s =>
  ⟨run_shift_accumulator .ASL rfl (fun _ => shiftLeft) s, run_shift_accumulator .LSR rfl (fun _ => shiftRight) s,
    run_shift_accumulator .ROL rfl rotateLeft s, run_shift_accumulator .ROR rfl rotateRight s⟩

/-- Settles O40: neither INC nor DEC has a legal mode outside memory. -/
theorem memoryIncrementResults : Obligations.MemoryIncrementResults := fun _ _ _ _ _ _ hp h =>
  ⟨fun hl => run_modify_inMemory hp h (inMemory_of_legal (by decide) hl) hl (fun _ m => m + 1) fun p m => setNZ (m + 1) p,
    fun hl => run_modify_inMemory hp h (inMemory_of_legal (by decide) hl) hl (fun _ m => m - 1) fun p m => setNZ (m - 1) p⟩

/-- Settles O41: each is one update of the registers, and TXS alone is not an `updateA`, `updateX` or `updateY`. -/
theorem registerOnlyResults : Obligations.RegisterOnlyResults := fun s =>
  ⟨run_implicit (m := .INX) rfl _ s, run_implicit (m := .INY) rfl _ s, run_implicit (m := .DEX) rfl _ s,
    run_implicit (m := .DEY) rfl _ s, run_implicit (m := .TAX) rfl _ s, run_implicit (m := .TAY) rfl _ s,
    run_implicit (m := .TXA) rfl _ s, run_implicit (m := .TYA) rfl _ s, run_implicit (m := .TSX) rfl _ s,
    run_implicit (m := .TXS) rfl _ s⟩

end Sys2Proof.Machine

/-! ### The loads and the stores, where their reads are answered (R120, R210 to R215) -/

namespace Sys2Proof.Machine

section
variable {mn : Mnemonic} {o : Operand} {s t u : State} {ptr : Word} {m : Byte}

/-- A load into the register that `set` writes, with N and Z following the operand. -/
theorem run_load (hp : pointer s o = some (ptr, t)) (h : operandSeen s o ptr t = some (m, u))
    (hl : legalPair mn o.mode = true) {set : Byte → State → State} (hcfg : ∀ v t, (set v t).cfg = t.cfg)
    (hcyc : ∀ v n t, (set v t).addCyc n = set v (t.addCyc n)) :
    run mn o (readInto fun m t => (set m t).setP (setNZ m t.p)) s =
      .next ((set m (advanced s mn o ptr u)).setP (setNZ m s.p)) := by
  have hu : (resolved s o u).p = s.p := (congrArg State.p (state_of_operandSeen hp h) :)
  rw [run_readInto hl hp h (fun m t => (set m t).setP (setNZ m t.p)) hcfg, hu]
  exact congrArg (fun t => Host.Outcome.next (t.setP (setNZ m s.p))) (hcyc m _ _)

/-- STA, STX or STY, with a register that the pointer reads leave as it was: every legal mode of it is in memory. -/
theorem run_storeReg_inMemory (hp : pointer s o = some (ptr, t)) (hm : mn ∈ memoryMnemonics)
    (hl : legalPair mn o.mode = true) {reg : State → Byte} (hreg : reg (resolved s o t) = reg s) :
    run mn o (storeReg reg) s = .next (writeByte (effAddr s o ptr) (reg s) (advanced s mn o ptr t)) := by
  rw [run_storeReg hl hp, hreg, store_of_inMemory (inMemory_of_legal hm hl)]
  rfl

end

/-- Settles O36: the three are one routine, on the register of each. -/
theorem loadResults : Obligations.LoadResults := fun _ _ _ _ _ _ hp h =>
  ⟨fun hl => run_load hp h hl (set := State.setA) (fun _ _ => rfl) fun _ _ _ => rfl,
    fun hl => run_load hp h hl (set := State.setX) (fun _ _ => rfl) fun _ _ _ => rfl,
    fun hl => run_load hp h hl (set := State.setY) (fun _ _ => rfl) fun _ _ _ => rfl⟩

/-- Settles O37: the three are one routine, on the register of each, which the pointer reads do not write. -/
theorem storeResults : Obligations.StoreResults := fun _ _ _ _ hp =>
  have ht := state_of_pointer hp
  ⟨fun hl => run_storeReg_inMemory hp (by decide) hl (reg := State.a) (congrArg State.a ht :),
    fun hl => run_storeReg_inMemory hp (by decide) hl (reg := State.x) (congrArg State.x ht :),
    fun hl => run_storeReg_inMemory hp (by decide) hl (reg := State.y) (congrArg State.y ht :)⟩

end Sys2Proof.Machine

/-! ### The stack instructions (R24, R55, R240 to R243) -/

namespace Sys2Proof.Machine

/-- A push of an instruction whose PC is past the opcode, field by field: the write, and SP after it. -/
theorem push_setPC (v : Byte) (w : Word) (s : State) :
    push v (s.setPC w) = { writeByte (0x0100 + zext16 s.sp) v s with pc := w, sp := s.sp - 1 } := by
  rw [← stackAddr_eq]
  rfl

theorem exec_pha (s : State) : exec .pha s = .next (push s.a (s.setPC (s.pc + 1))) := run_implicit (m := .PHA) rfl _ s

theorem exec_php (s : State) : exec .php s = .next (push (s.p ||| s.cfg.pushMask) (s.setPC (s.pc + 1))) :=
  run_implicit (m := .PHP) rfl _ s

section
variable {s t : State} {v : Byte}

/-- An instruction that pulls a byte and then updates the state with it, where the pull is answered. -/
theorem run_pullInto {mn : Mnemonic} (hl : legalPair mn .implicit = true) (f : Byte → State → State)
    (h : sees s (stackAddr (s.sp + 1)) = some (v, t)) :
    run mn .implicit (fun c s => (pull s).bind fun v s => .ok c (f v s)) s =
      .next (f v ((t.setPC (s.pc + 1)).setSP (s.sp + 1))) := by
  have hpull : pull (s.setPC (s.pc + 1)) = .ok v ((t.setPC (s.pc + 1)).setSP (s.sp + 1)) :=
    pull_of_sees (sees_setPC _ h)
  rw [run_implicit_of hl, hpull]
  exact congrArg Host.Outcome.next (finish_plain rfl rfl rfl _ _)

theorem exec_pla_of_sees (h : sees s (stackAddr (s.sp + 1)) = some (v, t)) :
    exec .pla s = .next { t with pc := s.pc + 1, sp := s.sp + 1, a := v, p := setNZ v s.p } := by
  have hp : t.p = s.p := (congrArg State.p (state_of_sees h) :)
  rw [← hp]
  exact run_pullInto (mn := .PLA) rfl State.updateA h

theorem exec_plp_of_sees (h : sees s (stackAddr (s.sp + 1)) = some (v, t)) :
    exec .plp s = .next { t with pc := s.pc + 1, sp := s.sp + 1, p := v } :=
  run_pullInto (mn := .PLP) rfl State.setP h

/-- What the next pull's read finds after a push on plain storage: the byte pushed, whatever the other registers are. -/
theorem sees_of_push (hw : Memory.wf s.mem = true) (hk : kindAt s.cfg.map (stackAddr s.sp) = .plain)
    (hport : SamePort t (push v s)) (hsp : t.sp = s.sp - 1) :
    sees t (stackAddr (t.sp + 1)) = some (v, t.logRead (stackAddr (t.sp + 1))) := by
  have haddr : t.sp + 1 = s.sp := by rw [hsp, BitVec.sub_add_cancel]
  have hcfg : t.cfg = s.cfg := hport.cfg
  have hpeek : peek t (stackAddr s.sp) = v :=
    (peek_congr hport.mem hport.cfg _).trans (peek_writeByte_same hw hk)
  rw [haddr, sees_of_stored (.inl (hcfg ▸ hk)), hpeek]

end

/-- Settles O42: a push is an update of the state, and a pull is a read whose byte the update takes. -/
theorem stackResults : Obligations.StackResults := by
  intro s
  refine ⟨?pha, ?php, fun v t h => ?pulls⟩
  case pha => rw [exec_pha, push_setPC]
  case php => rw [exec_php, push_setPC]
  case pulls =>
    rw [← stackAddr_eq] at h
    exact ⟨exec_pla_of_sees h, exec_plp_of_sees h⟩

/-- Settles O58: the pull reads where the push wrote, as SP goes down by one and up again. -/
theorem pullUndoesPush : Obligations.PullUndoesPush := by
  intro s t hw hk
  have hsp : s.sp - 1 + 1 = s.sp := BitVec.sub_add_cancel _ _
  refine ⟨fun ht a' => ?_, fun ht p' => ?_⟩
  · cases (exec_pha s).symm.trans ht
    exact ⟨_, exec_pla_of_sees (sees_of_push (s := s.setPC (s.pc + 1)) hw hk {} rfl), rfl, hsp⟩
  · cases (exec_php s).symm.trans ht
    exact ⟨_, exec_plp_of_sees (sees_of_push (s := s.setPC (s.pc + 1)) hw hk {} rfl), rfl, hsp⟩

end Sys2Proof.Machine

/-! ### The jump, the call and the return (R250, R252, R253) -/

namespace Sys2Proof.Machine

section
variable {s t u : State} {o : Operand} {ptr : Word}

/-- An instruction that leaves its context as the resolver made it, where no page is crossed: its routine alone. -/
theorem run_of_routine {mn : Mnemonic} {r : Ctx → State → Res Ctx} (hl : legalPair mn o.mode = true)
    (hp : pointer s o = some (ptr, t)) (hx : crosses s o ptr = false)
    (hr : r (ctxOf s o ptr) (resolved s o t) = .ok (ctxOf s o ptr) u) : run mn o r s = .next u := by
  rw [run_of_legal hl, resolve_of_pointer hp, Res.bind_ok, hr]
  exact congrArg Host.Outcome.next (finish_plain rfl hx rfl mn u)

/-- Neither mode of JMP has an index that could leave the page (R123). -/
theorem crosses_of_legal_jmp (hl : legalPair .JMP o.mode = true) (s : State) (ptr : Word) :
    crosses s o ptr = false := by
  cases o with
  | absolute _ | indirect _ => rfl
  | _ => cases hl

/-- JSR as two pushes of the address of its last byte, which stands two past its opcode. -/
theorem exec_jsr (target : Word) (s : State) : exec (.jsr target) s =
    .next ((push (lo8 (s.pc + 2)) (push (hi8 (s.pc + 2)) s)).setPC target) := by
  have hret : s.pc + 3 - 1 = s.pc + 2 := by bv_omega
  rw [← hret]
  exact run_of_routine (mn := .JSR) (o := .absolute target) (ptr := 0) (t := s) (r := callTo) rfl rfl rfl rfl

/-- The state after JSR's pushes, field by field: two writes, the second one below the first, and SP. -/
theorem push_push_setPC (v w : Byte) (target : Word) (s : State) : (push w (push v s)).setPC target =
    { writeByte (0x0100 + zext16 (s.sp - 1)) w (writeByte (0x0100 + zext16 s.sp) v s) with
      sp := s.sp - 2, pc := target } := by
  have hsp : s.sp - 2 = s.sp - 1 - 1 := by bv_omega
  rw [← stackAddr_eq, ← stackAddr_eq, hsp]
  rfl

/-- RTS where both of its pulls are answered. -/
theorem exec_rts_of_sees {lo hi : Byte} (hlo : sees s (stackAddr (s.sp + 1)) = some (lo, t))
    (hhi : sees t (stackAddr (s.sp + 2)) = some (hi, u)) :
    exec .rts s = .next { u with sp := s.sp + 2, pc := hiLo hi lo + 1 } := by
  have hsp : s.sp + 2 = s.sp + 1 + 1 := by bv_omega
  rw [hsp] at hhi ⊢
  have hpull : pull (resolved s .implicit s) = .ok lo ((t.setPC (s.pc + 1)).setSP (s.sp + 1)) :=
    pull_of_sees (sees_setPC _ hlo)
  have hpull' : pull ((t.setPC (s.pc + 1)).setSP (s.sp + 1)) = .ok hi
      (((u.setPC (s.pc + 1)).setSP (s.sp + 1)).setSP (s.sp + 1 + 1)) :=
    pull_of_sees (sees_setSP _ (sees_setPC _ hhi))
  refine run_of_routine (mn := .RTS) (o := .implicit) rfl rfl rfl ?_
  rw [returnFrom, hpull, Res.bind_ok, hpull', Res.bind_ok]
  rfl

/-- The second of two pushes leaves the byte of the first in its place: SP has moved to another address. -/
theorem peek_push_push (hw : Memory.wf s.mem = true) (hk : kindAt s.cfg.map (stackAddr s.sp) = .plain) (v w : Byte) :
    peek (push w (push v s)) (stackAddr s.sp) = v := by
  have hne : stackAddr (s.sp - 1) ≠ stackAddr s.sp := fun h => absurd (stackAddr_inj.mp h) (by bv_omega)
  exact (peek_writeByte_other w hne).trans (peek_writeByte_same hw hk)

/-- What the reads of two pulls find after two pushes on plain storage: the bytes pushed, the last one first, whatever
the registers other than SP are. -/
theorem sees_of_push_push {v w : Byte} (hw : Memory.wf s.mem = true) (hk : kindAt s.cfg.map (stackAddr s.sp) = .plain)
    (hk' : kindAt s.cfg.map (stackAddr (s.sp - 1)) = .plain) (hport : SamePort t (push w (push v s)))
    (hsp : t.sp = s.sp - 1 - 1) :
    sees t (stackAddr (t.sp + 1)) = some (w, t.logRead (stackAddr (t.sp + 1))) ∧
      sees (t.logRead (stackAddr (t.sp + 1))) (stackAddr (t.sp + 2)) =
        some (v, (t.logRead (stackAddr (t.sp + 1))).logRead (stackAddr (t.sp + 2))) := by
  refine ⟨sees_of_push (s := push v s) (writeByte_mem_wf hw) hk' hport hsp, ?_⟩
  have haddr : t.sp + 2 = s.sp := by rw [hsp]; bv_omega
  have hcfg : t.cfg = s.cfg := hport.cfg
  have hpeek : peek t (stackAddr s.sp) = v := (peek_congr hport.mem hport.cfg _).trans (peek_push_push hw hk v w)
  rw [haddr, sees_of_stored (.inl (by rw [logRead_cfg, hcfg, hk])), peek_logRead, hpeek]

end

/-- Settles O43: the resolver makes the pointer reads, and the routine writes PC alone. -/
theorem jmpResult : Obligations.JmpResult := fun _ s _ ptr hl hp =>
  run_of_routine hl hp (crosses_of_legal_jmp hl s ptr) rfl

/-- Settles O44: JSR is two pushes and RTS two pulls, from the addresses that SP names one after the other. -/
theorem callAndReturnResults : Obligations.CallAndReturnResults := by
  refine fun s => ⟨fun target => ?jsr, fun lo hi t u hlo hhi => ?rts⟩
  case jsr => rw [exec_jsr, push_push_setPC]
  case rts =>
    rw [← stackAddr_eq] at hlo hhi
    exact exec_rts_of_sees hlo hhi

/-- Settles O57: the two pulls find the two bytes JSR pushed, and the address they make is that of JSR's last byte. -/
theorem rtsReturnsAfterJsr : Obligations.RtsReturnsAfterJsr := by
  intro s t target pc' a' x' y' p' n hw hk hk' ht
  cases (exec_jsr target s).symm.trans ht
  obtain ⟨hlo, hhi⟩ := sees_of_push_push (t := { (push (lo8 (s.pc + 2)) (push (hi8 (s.pc + 2)) s)).setPC target with
    a := a', x := x', y := y', p := p', pc := pc', cyc := n }) hw hk hk' {} rfl
  have hpc : hiLo (hi8 (s.pc + 2)) (lo8 (s.pc + 2)) + 1 = s.pc + 3 := by rw [hiLo_hi8_lo8]; bv_omega
  have hsp : s.sp - 1 - 1 + 2 = s.sp := by bv_omega
  exact ⟨_, exec_rts_of_sees hlo hhi, hpc, hsp, rfl, rfl, rfl, rfl, rfl⟩

end Sys2Proof.Machine

/-! ### The flag instructions, NOP and the default entry (R270 to R278) -/

namespace Sys2Proof.Machine

theorem exec_dflt (op : Byte) (s : State) : exec (.dflt op) s = .next (s.setPC (s.pc + 1)) :=
  run_implicit (m := .NOP) rfl id s

/-- Settles O46: each is one update of P, or none. -/
theorem flagAndNopResults : Obligations.FlagAndNopResults := fun s =>
  ⟨run_implicit (m := .CLC) rfl _ s, run_implicit (m := .SEC) rfl _ s, run_implicit (m := .CLI) rfl _ s,
    run_implicit (m := .SEI) rfl _ s, run_implicit (m := .CLD) rfl _ s, run_implicit (m := .SED) rfl _ s,
    run_implicit (m := .CLV) rfl _ s, run_implicit (m := .NOP) rfl id s, fun op => exec_dflt op s⟩

/-- A default opcode decodes to the default entry's instruction, which takes none of the bytes after it (R75, R278). -/
theorem decodeWith_of_defaultEntry {table : List Entry} {op : Byte} (he : table[op.toNat]? = some defaultEntry)
    (bs : List Byte) : decodeWith table (op :: bs) = .ok (.dflt op, bs) := by
  rw [decodeWith, he]
  rfl

/-- The first read of a step, where it is answered: the transaction alone is listed. -/
theorem sees_clearBus {s : State} {a : Word} {v : Byte} (h : portAnswer s a = some v) :
    sees s.clearBus a = some (v, { s with bus := [.rd a (some v)], devLog := deviceLog s a (.rd a (some v)) }) := by
  refine sees_eq_some.mpr ⟨h, ?_⟩
  rw [State.logRead, portAnswer_clearBus, h]
  rfl

/-- Settles O47: the opcode's read is the whole fetch, the instruction moves PC, and the base count of the entry is 1. -/
theorem defaultOpcodeStep : Obligations.DefaultOpcodeStep := by
  intro s op hrun ha hop he
  have haddrs : addrsFrom s.pc (1 + modeBytes defaultEntry.mode) = [s.pc] := addrsFrom_succ s.pc 0
  have hread : seesAll (addrsFrom s.pc (1 + modeBytes defaultEntry.mode)) s.clearBus =
      some ([op], { s with bus := [.rd s.pc (some op)], devLog := deviceLog s s.pc (.rd s.pc (some op)) }) := by
    rw [haddrs, seesAll, sees_clearBus hop]
    rfl
  rw [stepRunsDecodedInstr s _ _ _ op [] [] hrun ha hread he (decodeWith_of_defaultEntry he []), exec_dflt]
  exact congrArg Host.Outcome.next (chargeBase_of_running (n := 1) hrun)

end Sys2Proof.Machine

/-! ### BRK and RTI (R280, R283, R284, R306, R307) -/

namespace Sys2Proof.Machine

section
variable {s t u v : State} {p lo hi : Byte}

/-- The trap entry where both reads of the vector are answered. -/
theorem trapEntry_of_sees (hlo : sees s 0xFFFE = some (lo, t)) (hhi : sees t 0xFFFF = some (hi, u)) :
    trapEntry s = .ok () (((push (u.p ||| 0x30) (push (lo8 (u.pc + 1)) (push (hi8 (u.pc + 1)) u))).setP
      (setFlag .i true u.p)).setPC (hiLo hi lo)) := by
  rw [trapEntry, readByte_of_sees hlo, Res.bind_ok, readByte_of_sees hhi, Res.bind_ok]
  rfl

/-- The state after the trap entry's pushes, field by field: three writes, each one below the one before, and SP. -/
theorem push_push_push_setP_setPC (x y z q : Byte) (w target : Word) (s : State) :
    ((push z (push y (push x (s.setPC w)))).setP q).setPC target =
      { writeByte (0x0100 + zext16 (s.sp - 2)) z (writeByte (0x0100 + zext16 (s.sp - 1)) y
          (writeByte (0x0100 + zext16 s.sp) x s)) with sp := s.sp - 3, p := q, pc := target } := by
  have h2 : s.sp - 2 = s.sp - 1 - 1 := by bv_omega
  have h3 : s.sp - 3 = s.sp - 1 - 1 - 1 := by bv_omega
  rw [← stackAddr_eq, ← stackAddr_eq, ← stackAddr_eq, h2, h3]
  rfl

/-- The trap return where its three pulls are answered. -/
theorem trapReturn_of_sees (hp : sees s (stackAddr (s.sp + 1)) = some (p, t))
    (hlo : sees t (stackAddr (s.sp + 2)) = some (lo, u)) (hhi : sees u (stackAddr (s.sp + 3)) = some (hi, v)) :
    trapReturn s = .ok () { v with sp := s.sp + 3, p := p, pc := hiLo hi lo } := by
  have h2 : s.sp + 2 = s.sp + 1 + 1 := by bv_omega
  have h3 : s.sp + 3 = s.sp + 1 + 1 + 1 := by bv_omega
  rw [h2] at hlo
  rw [h3] at hhi ⊢
  have hpull : pull ((t.setSP (s.sp + 1)).setP p) = .ok lo (((u.setSP (s.sp + 1)).setP p).setSP (s.sp + 1 + 1)) :=
    pull_of_sees (sees_setP p (sees_setSP _ hlo))
  have hpull' : pull (((u.setSP (s.sp + 1)).setP p).setSP (s.sp + 1 + 1)) =
      .ok hi ((((v.setSP (s.sp + 1)).setP p).setSP (s.sp + 1 + 1)).setSP (s.sp + 1 + 1 + 1)) :=
    pull_of_sees (sees_setSP _ (sees_setP p (sees_setSP _ hhi)))
  rw [trapReturn, pull_of_sees hp, Res.bind_ok, hpull, Res.bind_ok, hpull', Res.bind_ok]
  rfl

/-- BRK where both reads of the vector are answered: the address pushed is two past the opcode's (R283). -/
theorem exec_brk_of_sees (hs : s.cfg.stubs = .nmos) (hlo : sees s 0xFFFE = some (lo, t))
    (hhi : sees t 0xFFFF = some (hi, u)) :
    exec .brk s = .next
      { writeByte (0x0100 + zext16 (s.sp - 2)) (s.p ||| 0x30) (writeByte (0x0100 + zext16 (s.sp - 1)) (lo8 (s.pc + 2))
          (writeByte (0x0100 + zext16 s.sp) (hi8 (s.pc + 2)) u)) with
        sp := s.sp - 3, p := setFlag .i true s.p, pc := hiLo hi lo } := by
  have hu : u = { s with bus := u.bus, devLog := u.devLog } := by rw [state_of_sees hhi, state_of_sees hlo]
  have hsp : u.sp = s.sp := by rw [hu]
  have hp : u.p = s.p := by rw [hu]
  have hpc : s.pc + 2 = s.pc + 1 + 1 := by bv_omega
  rw [← hsp, ← hp, hpc, ← push_push_push_setP_setPC _ _ _ _ (s.pc + 1)]
  refine run_of_routine (mn := .BRK) (o := .implicit) (ptr := 0) (t := s) (r := breakTrap) rfl rfl rfl ?_
  rw [breakTrap, resolved_cfg, hs]
  exact congrArg (Res.bind · _) (trapEntry_of_sees (sees_setPC _ hlo) (sees_setPC _ hhi))

/-- RTI where its three pulls are answered. -/
theorem exec_rti_of_sees (hs : s.cfg.stubs = .nmos) (hp : sees s (stackAddr (s.sp + 1)) = some (p, t))
    (hlo : sees t (stackAddr (s.sp + 2)) = some (lo, u)) (hhi : sees u (stackAddr (s.sp + 3)) = some (hi, v)) :
    exec .rti s = .next { v with sp := s.sp + 3, p := p, pc := hiLo hi lo } := by
  refine run_of_routine (mn := .RTI) (o := .implicit) (ptr := 0) (t := s) (r := breakReturn) rfl rfl rfl ?_
  rw [breakReturn, resolved_cfg, hs]
  exact congrArg (Res.bind · _)
    (trapReturn_of_sees (s := s.setPC (s.pc + 1)) (sees_setPC _ hp) (sees_setPC _ hlo) (sees_setPC _ hhi))

/-- BRK of the minimal core (R280, R283): the fault, with the opcode's address. -/
theorem exec_brk_of_fault (hs : s.cfg.stubs = .fault) : exec .brk s = .next (haltedBy s .unsupportedBrk s.pc s) := by
  have hr : breakTrap (ctxOf s .implicit 0) (s.setPC (s.pc + 1)) = .fail .unsupportedBrk s.pc (s.setPC (s.pc + 1)) := by
    rw [breakTrap, setPC_cfg, hs]
    rfl
  exact exec_of_implicit_stops rfl rfl ⟨_, hr, {}⟩

/-- RTI of the minimal core (R280, R284): the fault, with the opcode's address. -/
theorem exec_rti_of_fault (hs : s.cfg.stubs = .fault) : exec .rti s = .next (haltedBy s .unsupportedRti s.pc s) := by
  have hr : breakReturn (ctxOf s .implicit 0) (s.setPC (s.pc + 1)) = .fail .unsupportedRti s.pc (s.setPC (s.pc + 1)) := by
    rw [breakReturn, setPC_cfg, hs]
    rfl
  exact exec_of_implicit_stops rfl rfl ⟨_, hr, {}⟩

end

/-- Settles O48: BRK's trap entry is two reads and then three pushes, and RTI's trap return three pulls. -/
theorem nmosTrapResults : Obligations.NmosTrapResults := by
  refine fun s hs => ⟨fun lo hi t u hlo hhi => exec_brk_of_sees hs hlo hhi, fun p lo hi t u v hp hlo hhi => ?_⟩
  rw [← stackAddr_eq] at hp hlo hhi
  exact exec_rti_of_sees hs hp hlo hhi

/-- Settles O49: each routine stops at once, before any access. -/
theorem stubsHaltTheMachine : Obligations.StubsHaltTheMachine := fun _ hs => ⟨exec_brk_of_fault hs, exec_rti_of_fault hs⟩

end Sys2Proof.Machine

/-! ### Reset (R315, R320, R321) -/

namespace Sys2Proof.Machine

/-- Settles O1: the table's check comes first (R315), and what reset loads touches neither memory nor the devices. -/
theorem resetLoadsInit : Obligations.ResetLoadsInit := fun _ _ =>
  ⟨fun ha => ⟨_, withTable_of_admitted ha _, rfl, rfl, rfl, rfl, rfl, rfl, rfl, rfl, rfl, rfl, rfl, rfl, rfl, rfl⟩,
    fun hn => withTable_of_not_admitted hn _⟩

/-- What reset loads meets the invariant, if the contents and the parameters it leaves alone do. -/
theorem inv_resetWith (i : Init) {s : State} (hmem : Memory.wf s.mem = true) (hcfg : s.cfg.wf = true) :
    Inv (s.resetWith i) := ⟨hmem, hcfg, rfl, fun _ => rfl⟩

theorem configStd_wf : configStd.wf = true := Bool.and_eq_true_iff.mpr ⟨stdTableIsAdmitted.1, by decide⟩

/-- Settles O2: a reset that completes has loaded the run state, and the model's own is one from its `INIT`. -/
theorem resetMeetsInvariant : Obligations.ResetMeetsInvariant := by
  refine ⟨fun i s t hmem hcfg hr => ?_, inv_resetWith (s := State.reset) initStd rfl configStd_wf⟩
  have ha : admitted s.cfg.table = true := (Bool.and_eq_true_iff.mp hcfg).1
  rw [hostReset, withTable_of_admitted ha] at hr
  cases hr
  exact inv_resetWith i hmem hcfg

end Sys2Proof.Machine

/-! ### The two phases of an instruction, and a fault out of the first (R302, R304) -/

namespace Sys2Proof.Machine

/-- The resolver and the routine read and then write, and a fault that is no `MEM_READ` has the opcode's address. -/
theorem resolve_routineOf_phases (i : Instr) (s : State) :
    ReadsThenWrites s.pc s ((resolve i.operand s).bind (routineOf i)) :=
  (Reads.resolve _).then fun c t hc => by
    obtain ⟨-, hop, -⟩ := resolve_ctx hc
    exact hop ▸ routineOf_phases i c t

/-- A fault taken after a read phase changes the run state alone (R302). -/
theorem takeFault_of_readPhase {s u : State} (h : ReadPhase s u) (f : Fault) (a : Word) :
    takeFault s f a u = haltedBy s f a u := takeFault_eq_haltedBy h.mem h.cfg f a

/-- Settles O55: what is written after the reads keeps the run state and CYC, and a fault is taken before it. -/
theorem execCompletesOrTakesAFault : Obligations.ExecCompletesOrTakesAFault := by
  intro i s t he
  rcases exec_phases he with ⟨u, v, pc, k, hr, hw, hk, rfl⟩ | ⟨f, a, u, ⟨hr, -⟩, rfl⟩
  · have hcyc : v.cyc = s.cyc := hw.cyc.trans hr.cyc
    refine ⟨hw.cfg.trans hr.cfg, .inl ⟨hw.halted.trans hr.halted, hw.fault.trans hr.fault,
      hw.faultAddr.trans hr.faultAddr, ?_⟩⟩
    rw [addCyc_cyc, setPC_cyc, hcyc]
    omega
  · exact ⟨hr.cfg, .inr ⟨f, a, takeFault_of_readPhase hr f a⟩⟩

/-- An instruction that halts a running machine was stopped by a fault in its resolver or its routine. -/
theorem exec_halts {i : Instr} {s t : State} (he : exec i s = .next t) (hrun : s.halted = false)
    (hh : t.halted = true) :
    ∃ f a u, (resolve i.operand s).bind (routineOf i) = .fail f a u ∧ t = takeFault s f a u := by
  cases hl : i.pairLegal with
  | false => rw [exec_of_illegal hl] at he; cases he
  | true =>
    have hph := resolve_routineOf_phases i s
    rw [exec_of_legal hl] at he
    cases hb : (resolve i.operand s).bind (routineOf i) with
    | fail f a u => rw [hb] at he; cases he; exact ⟨f, a, u, rfl, rfl⟩
    | ok c v =>
      rw [hb] at he hph
      obtain ⟨u, hr, hw⟩ := hph
      cases he
      have hgo : v.halted = false := hw.halted.trans (hr.halted.trans hrun)
      exact absurd (hgo.symm.trans hh) Bool.false_ne_true

/-- An instruction that is stopped by a fault has made the reads that led there, and nothing else has changed. -/
theorem exec_of_stops {i : Instr} {s t : State} {f : Fault} {a : Word} (hl : i.pairLegal = true)
    (h : ((resolve i.operand s).bind (routineOf i)).StopsAfter f a t) : exec i s = .next (haltedBy s f a t) := by
  obtain ⟨w, hw, hport⟩ := h
  have hph := resolve_routineOf_phases i s
  rw [hw] at hph
  have hsame : haltedBy s f a w = haltedBy s f a t := by rw [haltedBy, hport.bus, hport.devLog, haltedBy]
  rw [exec_of_legal hl, hw]
  exact congrArg Host.Outcome.next ((takeFault_of_readPhase hph.1 f a).trans hsame)

section
variable {s t : State} {o : Operand} {lo hi : Word}

/-- A resolver that reads a pointer is stopped where the low byte is answered with ERR (R304). -/
theorem resolve_stops_lo (ho : ptrAddrs s o = [lo, hi]) (herr : portAnswer s lo = none) :
    (resolve o s).StopsAfter .memRead lo (s.logRead lo) := by
  cases o with
  | indirectX _ | indirectY _ | indirect _ =>
    cases ho
    exact (readByte_stops (s := s.setPC _) {} herr).bind
  | _ => cases ho

/-- A resolver that reads a pointer is stopped where the high byte is answered with ERR, after the low byte (R304). -/
theorem resolve_stops_hi {v : Byte} (ho : ptrAddrs s o = [lo, hi]) (hv : sees s lo = some (v, t))
    (herr : portAnswer t hi = none) : (resolve o s).StopsAfter .memRead hi (t.logRead hi) := by
  obtain ⟨-, rfl⟩ := sees_eq_some.mp hv
  cases o with
  | indirectX _ | indirectY _ | indirect _ =>
    cases ho
    exact .bind_ok (readByte_of_sees (sees_setPC _ hv)) (readByte_stops {} herr).bind
  | _ => cases ho

end

/-- Settles O51: an ERR on either byte stops the resolver there, and with it the instruction. -/
theorem unservedPointerHalts : Obligations.UnservedPointerHalts := fun _ _ _ _ hl ho =>
  ⟨fun herr => exec_of_stops hl (resolve_stops_lo ho herr).bind,
    fun _ _ hv herr => exec_of_stops hl (resolve_stops_hi ho hv herr).bind⟩

end Sys2Proof.Machine

/-! ### An ERR during the fetch (R304, items 1 and 2) -/

namespace Sys2Proof.Machine

section
variable {s t u : State}

/-- A step whose fetch is stopped takes the fault with the reads made so far. -/
theorem step_of_fetch_fail {f : Fault} {a : Word} (ha : admitted s.cfg.table = true) (hrun : s.halted = false)
    (hf : fetch s.clearBus = .fail f a u) : step s = .next (haltedBy s f a u) := by
  have hread : Reads s.pc s.clearBus (fetch s.clearBus) := Reads.fetch _
  rw [hf] at hread
  rw [step_of_running ha hrun, runStep, hf]
  exact congrArg Host.Outcome.next (takeFault_eq_haltedBy (s := s) hread.1.mem hread.1.cfg f a)

/-- Once the opcode is answered, the fetch stops where the reads of the operand bytes do. -/
theorem fetch_of_operand_fail {e : Entry} {op : Byte} {f : Fault} {a : Word} (hop : sees s s.pc = some (op, t))
    (he : s.cfg.table[op.toNat]? = some e) (hf : readBytes (modeBytes e.mode) (s.pc + 1) t = .fail f a u) :
    fetch s = .fail f a u := by
  obtain ⟨-, rfl⟩ := sees_eq_some.mp hop
  simp only [fetch, readByte_of_sees hop, Res.bind_ok, logRead_cfg, logRead_pc, he, hf, Res.bind_fail]

/-- The first of some bytes is asked for before the others. -/
theorem readBytes_of_first_none {n : Nat} {a : Word} (hn : 1 ≤ n) (herr : portAnswer s a = none) :
    readBytes n a s = .fail .memRead a (s.logRead a) := by
  cases n with
  | zero => cases hn
  | succ n => rw [readBytes, readByte_of_none herr, Res.bind_fail]

/-- The second of two bytes is asked for after the first. -/
theorem readBytes_of_second_none {a : Word} {b : Byte} (hb : sees s a = some (b, t))
    (herr : portAnswer t (a + 1) = none) : readBytes 2 a s = .fail .memRead (a + 1) (t.logRead (a + 1)) := by
  rw [readBytes, readByte_of_sees hb, Res.bind_ok, readBytes_of_first_none le_rfl herr, Res.bind_fail]

end

/-- Settles O21: the fetch asks for the opcode, the first and the second operand byte in this order, and stops at an ERR. -/
theorem fetchErrorsComeFirst : Obligations.FetchErrorsComeFirst := by
  refine ⟨fun s hrun ha herr => step_of_fetch_fail ha hrun ?_, fun s t e op hrun ha hop he => ⟨fun h1 herr => ?_,
    fun h2 b u hb herr => ?_⟩⟩
  · exact congrArg (Res.bind · _) (readByte_of_none (s := s.clearBus) herr)
  · exact step_of_fetch_fail ha hrun (fetch_of_operand_fail hop he (readBytes_of_first_none h1 herr))
  · have hpc : s.pc + 2 = s.pc + 1 + 1 := by bv_omega
    rw [hpc] at herr ⊢
    exact step_of_fetch_fail ha hrun (fetch_of_operand_fail hop he (h2 ▸ readBytes_of_second_none hb herr))

end Sys2Proof.Machine

/-! ### The cause of a fault (R300) -/

namespace Sys2Proof.Machine

/-- Every fault that a part of a step raises is one of `P`. -/
def Res.Raises {α : Type} (P : Fault → Prop) (r : Res α) : Prop := ∀ f a t, r = .fail f a t → P f

section
variable {α β : Type} {P : Fault → Prop}

theorem Res.raises_ok (v : α) (s : State) : (Res.ok v s).Raises P := nofun

theorem Res.raises_fail {f : Fault} (h : P f) (a : Word) (s : State) : (Res.fail f a s : Res α).Raises P := by
  rintro _ _ _ ⟨⟩
  exact h

theorem Res.Raises.bind {r : Res α} {k : α → State → Res β} (hr : r.Raises P)
    (hk : ∀ v t, r = .ok v t → (k v t).Raises P) : (r.bind k).Raises P := by
  intro f a t h
  rcases Res.bind_eq_fail.mp h with h | ⟨v, u, hu, h⟩
  · exact hr f a t h
  · exact hk v u hu f a t h

/-- A read, and then what raises no fault. -/
theorem Res.Raises.bind_ok {r : Res α} (hr : r.Raises P) (k : α → State → β) (g : α → State → State) :
    (r.bind fun v t => .ok (k v t) (g v t)).Raises P := hr.bind fun _ _ _ => Res.raises_ok _ _

end

section
variable {P : Fault → Prop} (hP : P .memRead)
include hP

theorem readByte_raises (a : Word) (s : State) : (readByte a s).Raises P := by
  intro f b t h
  obtain ⟨-, rfl, -⟩ := readByte_eq_fail.mp h
  exact hP

theorem pull_raises (s : State) : (pull s).Raises P := readByte_raises hP _ _

theorem load_raises (c : Ctx) (s : State) : (load c s).Raises P := by
  unfold load
  cases c.mode with
  | immediate | accumulator | implicit | relative | indirect => exact Res.raises_ok _ _
  | _ => exact readByte_raises hP _ _

theorem resolve_raises (o : Operand) (s : State) : (resolve o s).Raises P := by
  cases o with
  | indirectX _ | indirectY _ | indirect _ =>
    exact (readByte_raises hP _ _).bind fun _ _ _ => (readByte_raises hP _ _).bind_ok _ _
  | _ => exact Res.raises_ok _ _

theorem readBytes_raises (n : Nat) (a : Word) (s : State) : (readBytes n a s).Raises P := by
  induction n generalizing a s with
  | zero => exact Res.raises_ok _ _
  | succ n ih => exact (readByte_raises hP a s).bind fun _ _ _ => (ih _ _).bind_ok _ _

theorem fetch_raises (s : State) : (fetch s).Raises P := by
  refine (readByte_raises hP _ _).bind fun op t _ => ?_
  split
  · exact Res.raises_ok _ _
  · refine (readBytes_raises hP _ _ _).bind fun bs u _ => ?_
    split <;> exact Res.raises_ok _ _

theorem trapEntry_raises (s : State) : (trapEntry s).Raises P :=
  (readByte_raises hP _ _).bind fun _ _ _ => (readByte_raises hP _ _).bind_ok _ _

theorem trapReturn_raises (s : State) : (trapReturn s).Raises P :=
  (pull_raises hP _).bind fun _ _ _ => (pull_raises hP _).bind fun _ _ _ => (pull_raises hP _).bind_ok _ _

theorem addInto_raises {s : State} (hd : s.cfg.decimal = .fault → flag .d s.p = true → P .unsupportedDecimal)
    (invert : Bool) (c : Ctx) : (addInto invert c s).Raises P := by
  refine Res.Raises.bind ?_ fun _ _ _ => (load_raises hP _ _).bind_ok _ _
  unfold decimalCheck
  split
  · rename_i h
    exact Res.raises_fail (hd h.1 h.2) _ _
  · exact Res.raises_ok _ _

theorem breakTrap_raises {s : State} (hs : s.cfg.stubs = .fault → P .unsupportedBrk) (c : Ctx) :
    (breakTrap c s).Raises P := by
  unfold breakTrap
  cases hc : s.cfg.stubs with
  | fault => exact Res.raises_fail (hs hc) _ _
  | nmos => exact (trapEntry_raises hP _).bind_ok _ _

theorem breakReturn_raises {s : State} (hs : s.cfg.stubs = .fault → P .unsupportedRti) (c : Ctx) :
    (breakReturn c s).Raises P := by
  unfold breakReturn
  cases hc : s.cfg.stubs with
  | fault => exact Res.raises_fail (hs hc) _ _
  | nmos => exact (trapReturn_raises hP _).bind_ok _ _

end

/-- The cause that R300 gives a fault of an instruction with the mnemonic `m` that starts in `s`. That of `MEM_READ` is
seen from the transactions (`FailsWell`), so nothing is asked of the instruction. -/
def Fault.CausedBy (m : Mnemonic) (s : State) : Fault → Prop
  | .memRead => True
  | .unsupportedBrk => m = .BRK ∧ s.cfg.stubs = .fault
  | .unsupportedRti => m = .RTI ∧ s.cfg.stubs = .fault
  | .unsupportedDecimal => m ∈ [.ADC, .SBC] ∧ flag .d s.p = true ∧ s.cfg.decimal = .fault

/-- Only the parameters and P count for the cause of a fault. -/
theorem Fault.causedBy_congr {m : Mnemonic} {s t : State} (hc : t.cfg = s.cfg) (hp : t.p = s.p) (f : Fault) :
    f.CausedBy m t ↔ f.CausedBy m s := by
  cases f <;> simp only [Fault.CausedBy, hc, hp]

/-- A routine raises a fault for its cause only. -/
theorem routineOf_raises (i : Instr) (c : Ctx) (s : State) :
    (routineOf i c s).Raises (Fault.CausedBy i.mnemonic s) := by
  cases i with
  | adc _ | sbc _ => exact addInto_raises trivial (fun hpol hd => ⟨by simp [Instr.mnemonic], hd, hpol⟩) _ _
  | brk => exact breakTrap_raises trivial (fun hs => ⟨rfl, hs⟩) _
  | rti => exact breakReturn_raises trivial (fun hs => ⟨rfl, hs⟩) _
  | cmp _ | cpx _ | cpy _ | and _ | ora _ | eor _ | bit _ | lda _ | ldx _ | ldy _ =>
    exact (load_raises trivial _ _).bind_ok _ _
  | asl _ | lsr _ | rol _ | ror _ | inc _ | dec _ => exact (load_raises trivial _ _).bind_ok _ _
  | pla | plp => exact (pull_raises trivial _).bind_ok _ _
  | rts => exact (pull_raises trivial _).bind fun _ _ _ => (pull_raises trivial _).bind_ok _ _
  | bcc _ | bcs _ | beq _ | bne _ | bmi _ | bpl _ | bvc _ | bvs _ =>
    change (branch _ _ _).Raises _
    unfold branch
    split <;> exact Res.raises_ok _ _
  | _ => exact Res.raises_ok _ _

/-- A resolver leaves P as it was. -/
theorem resolve_p (o : Operand) (s : State) : (resolve o s).state.p = s.p := by
  have hread : ∀ a t, (readByte a t).state.p = t.p := fun a t => by rw [readByte_state, logRead_p]
  cases o with
  | indirectX _ | indirectY _ | indirect _ =>
    exact bind_spares (hread _ _) fun _ _ => bind_spares (hread _ _) fun _ _ => rfl
  | _ => rfl

/-- An instruction raises a fault for its cause only. -/
theorem resolve_routineOf_raises (i : Instr) (s : State) :
    ((resolve i.operand s).bind (routineOf i)).Raises (Fault.CausedBy i.mnemonic s) :=
  (resolve_raises trivial _ _).bind fun c t hc f a u hf => by
    have hread : Reads s.pc s (resolve i.operand s) := Reads.resolve _
    have hp := resolve_p i.operand s
    rw [hc] at hread hp
    exact (Fault.causedBy_congr hread.cfg hp f).mp (routineOf_raises i c t f a u hf)

/-- The instruction fetched has its entry's mnemonic (R34). -/
theorem mnemonic_of_fetch {s t : State} {e : Entry} {i : Instr} (h : fetch s = .ok (some (e, i)) t) :
    i.mnemonic = e.mnemonic := by
  obtain ⟨op, u, -, h⟩ := Res.bind_eq_ok.mp h
  cases he : u.cfg.table[op.toNat]? with
  | none => rw [he] at h; cases h
  | some e' =>
    rw [he] at h
    obtain ⟨bs, v, -, h⟩ := Res.bind_eq_ok.mp h
    split at h
    · rename_i i' rest hd
      cases h
      have hdec : decodeWith u.cfg.table (op :: bs) = .ok (i, rest) := by rw [decodeWith, he]; exact hd
      obtain ⟨op', e'', he', hmode, hi, hbs⟩ := decodeWith_eq_ok.mp hdec
      cases hbs
      cases he.symm.trans he'
      exact (instrOfEntry_eq_some hmode hi).1
    · cases h

/-- What a step that halts has done: reads, and then a fault taken, which rolls back to the state before the step. The fault
is `MEM_READ`, or it has its cause in the entry fetched. -/
theorem step_halts {s t : State} (hrun : s.halted = false) (hs : step s = .next t) (hh : t.halted = true) :
    ∃ f a u, t = takeFault s f a u ∧ FailsWell s.pc s.clearBus f a u ∧
      (f = .memRead ∨ ∃ op e, portAnswer s s.pc = some op ∧ s.cfg.table[op.toNat]? = some e ∧
        f.CausedBy e.mnemonic s) := by
  have hfetch : Reads s.pc s.clearBus (fetch s.clearBus) := Reads.fetch _
  rcases runStep_eq_next (runStep_of_step hrun hs) with ⟨e, i, u, v, hf, he, rfl⟩ | ⟨f, a, u, hf, rfl⟩
  · have hsame : OnlyFetched s.clearBus u := by simpa [hf] using OnlyFetched.fetch s.clearBus
    rw [hf] at hfetch
    obtain ⟨op, hop, hentry⟩ := entry_of_fetch hf
    have hvh : v.halted = true := by
      obtain ⟨k, hk⟩ := chargeBase_eq e.base v
      rwa [hk] at hh
    obtain ⟨f, a, w, hw, rfl⟩ := exec_halts he (hfetch.halted.trans hrun) hvh
    have hph := resolve_routineOf_phases i u
    have hcause := resolve_routineOf_raises i u f a w hw
    rw [hw] at hph
    rw [mnemonic_of_fetch hf] at hcause
    have hpc : u.pc = s.pc := by rw [hsame]; rfl
    have hp : u.p = s.p := by rw [hsame]; rfl
    refine ⟨f, a, w, ?_, (hpc ▸ hph).after hfetch, .inr ⟨op, e, hop, hentry,
      (Fault.causedBy_congr hfetch.cfg hp f).mp hcause⟩⟩
    rw [hsame]
    rfl
  · have hmem : f = .memRead := fetch_raises (P := (· = .memRead)) rfl _ f a u hf
    rw [hf] at hfetch
    exact ⟨f, a, u, rfl, hfetch, .inl hmem⟩

/-- Settles O15: a step that halts has taken a fault out of its reads, and was rolled back to where it began. -/
theorem faultsArePrecise : Obligations.FaultsArePrecise := by
  intro s t hrun hs hh
  obtain ⟨f, a, u, rfl, ⟨hread, hlast, haddr⟩, -⟩ := step_halts hrun hs hh
  exact ⟨rfl, rfl, rfl, rfl, rfl, rfl, rfl, hread.mem, f, rfl, haddr, hlast⟩

/-- Settles O16: the fault taken is `MEM_READ`, which the read made last explains, or has its cause in the entry. -/
theorem eachFaultHasItsCause : Obligations.EachFaultHasItsCause := by
  intro s t hrun hs hh
  obtain ⟨f, a, u, rfl, ⟨-, hlast, haddr⟩, hcause⟩ := step_halts hrun hs hh
  rcases hcause with rfl | ⟨op, e, hop, he, hcause⟩
  · exact .inl ⟨rfl, rfl, hlast rfl⟩
  · cases f with
    | memRead => exact .inl ⟨rfl, rfl, hlast rfl⟩
    | unsupportedBrk => exact .inr ⟨haddr nofun, op, e, hop, he, .inl ⟨rfl, rfl, hcause⟩⟩
    | unsupportedRti => exact .inr ⟨haddr nofun, op, e, hop, he, .inr (.inl ⟨rfl, rfl, hcause⟩)⟩
    | unsupportedDecimal => exact .inr ⟨haddr nofun, op, e, hop, he, .inr (.inr ⟨rfl, rfl, hcause⟩)⟩

end Sys2Proof.Machine
